-- ==== Sys2Proof/Word.lean ====
section
/-! DEFINITION. The word types of the CORE (00_scope.md R9: u8, u15, u32) and the sizes of its two address spaces. -/

namespace Sys2Proof

/-- u32: CSR values, command words and DMA addresses (R8, R9). -/
abbrev Word := BitVec 32

/-- u8: a sample, a colour component, a byte of memory (R8, R9, R61). -/
abbrev Byte := BitVec 8

/-- u15: the WIDTH.W and HEIGHT.H fields (R31, R32; D7). -/
abbrev Dim := BitVec 15

/-- Three packed components, the defined bits [23:0] of PIX_IN and PIX_OUT (R36, R37). -/
abbrev Pix := BitVec 24

/-- The bytes of system memory, 2^32 (R20). -/
abbrev memSize : Nat := 4294967296

/-- The bytes of the CSR window (R20). -/
abbrev windowSize : Nat := 256

end Sys2Proof
end

