-- ==== Sys2Proof/Syntax.lean ====
section
/-! DEFINITION. The syntax of the CORE's interface: the eleven commands of spec/opcode_table.json, the command word, and
the steps that the agents outside the engine take (00_scope.md R18, 30_encoding.md R90 to R97). -/

namespace Sys2Proof

/-- The eleven commands of R91. No operand is encoded in the word (R92), so no constructor has an argument. -/
inductive Instr
  | nop
  | encode
  | decode
  | rgb2yuv
  | yuv2rgb
  | subsample
  | upsample
  | pack
  | unpack
  | pixRgb2yuv
  | pixYuv2rgb
deriving DecidableEq, Repr

/-- The one instruction format, CMDW (R90). -/
structure CmdWord where
  /-- bits [3:0], the operation code -/
  op : BitVec 4
  /-- bits [31:4], which must be 0 -/
  res : BitVec 28
deriving DecidableEq, Repr

/-- The direction of a DMA access (R83). -/
inductive Dir
  | read
  | write
deriving DecidableEq, Repr

/-- The width of a CSR access by the host; only 32 bits is answered normally (R41). That the other widths a host bus can issue are
8, 16 and 64 bits is the model's choice (DESIGN CHOICE, log 26): R41 says only "another width", and all of them behave alike. -/
inductive Width
  | w8
  | w16
  | w32
  | w64
deriving DecidableEq, Repr

/-- Who makes a memory access: the host, or another DMA master or CORE instance (R80, R240; log 17). -/
inductive Agent
  | host
  | other
deriving DecidableEq, Repr

/-- A byte range (base, len), computed without wrap-around (R67). -/
structure AddrRange where
  base : Nat
  len : Nat
deriving DecidableEq, Repr

/-- DMA accesses in one direction to a range that get a bus error response (R83). -/
structure BusFault where
  range : AddrRange
  dir : Dir
deriving DecidableEq, Repr

/-- One step of one agent (R18, R110). CSR accesses name a bus address, `CSR_BASE` + offset (R96). -/
inductive Event
  /-- the engine's completion step falls here, if it is enabled (R110, R122) -/
  | engine
  /-- `rd`: a CSR read (R41, R96) -/
  | csrRead (addr : Nat) (width : Width)
  /-- `wr`: a CSR write (R41, R96) -/
  | csrWrite (addr : Nat) (width : Width) (data : Word)
  /-- a one-byte memory read by an agent other than the CORE -/
  | memRead (agent : Agent) (addr : Word)
  /-- a one-byte memory write by an agent other than the CORE -/
  | memWrite (agent : Agent) (addr : Word) (data : Byte)
  /-- the host writes back its cached bytes of a range (R78) -/
  | cacheWriteBack (range : AddrRange)
  /-- the host invalidates its cached bytes of a range (R78) -/
  | cacheInvalidate (range : AddrRange)
  /-- the host looks at the interrupt output (R210) -/
  | irqSample
  /-- the reset input is asserted (true) or released (false) (R230) -/
  | resetPin (level : Bool)
  /-- the platform's bus behaviour changes between commands (R83) -/
  | busChange (faults : List BusFault)
deriving DecidableEq, Repr

end Sys2Proof
end

