-- ==== Sys2Proof/Config.lean ====
section
/-! DEFINITION. What a platform or an implementation fixes (00_scope.md R8; 93_implementation_defined.md I1, I7, I8, I13),
as a record that State carries so that every claim ranges over it, and the free values of the model, which have no body. -/

namespace Sys2Proof

/-- The colour arithmetic (R8, R13, R14; D13, OPEN, default F32_LTR). -/
inductive ColorArith
  /-- IEEE binary32, each operation rounded once, left to right -/
  | f32Ltr
  /-- exact rational arithmetic on the decimal literals -/
  | exact
deriving DecidableEq, Repr

/-- The coefficients of R141, each in millionths (every literal of the document has at most six decimals), and the
whole-number offset. I7 makes them a parameter whose default is the document's table. -/
structure Coeffs where
  kyr : Int
  kyg : Int
  kyb : Int
  kur : Int
  kug : Int
  kub : Int
  kvr : Int
  kvg : Int
  kvb : Int
  krv : Int
  kgu : Int
  kgv : Int
  kbu : Int
  off : Int
deriving DecidableEq, Repr

/-- The literals of R141, as printed. -/
def Coeffs.document : Coeffs where
  kyr := 299000
  kyg := 587000
  kyb := 114000
  kur := -168736
  kug := -331264
  kub := 500000
  kvr := 500000
  kvg := -418688
  kvb := -81312
  krv := 1402000
  kgu := 344136
  kgv := 714136
  kbu := 1772000
  off := 128

/-- The parameters of R8 that a platform or implementation fixes. -/
structure Platform where
  colorArith : ColorArith
  coeffs : Coeffs
  /-- CSR_BASE (D32) -/
  csrBase : Nat
  /-- DMA_COHERENT (R78; D25) -/
  dmaCoherent : Bool
  /-- the complement of BusOK (R83; D33): an access that no entry covers completes normally -/
  busFaults : List BusFault
  /-- memory with side effects on read or write (R65; I13) -/
  devices : List AddrRange
deriving DecidableEq, Repr

/-- The platform that `State.reset` names. ColorArith and the coefficients are the spec's defaults (R8; I7).
DESIGN CHOICE (log 3): the spec leaves the other four OPEN. -/
def Platform.standard : Platform where
  colorArith := .f32Ltr
  coeffs := .document
  csrBase := 0
  dmaCoherent := true
  busFaults := []
  devices := []

/-- A byte the spec leaves unspecified: the `k`-th one drawn in the `n`-th step (log 4). No body: nothing is known of it. -/
opaque Config.freeByte (n k : Nat) : Byte

/-- A choice the spec leaves unspecified, made in the `n`-th step (log 4). No body. -/
opaque Config.freeIndex (n : Nat) : Nat

end Sys2Proof
end

