-- ==== Sys2Proof/Machine/State.lean ====
section
/-! DEFINITION. The state of the CORE, its host and its platform as plain data (10_state.md; 70_reset_and_hazards.md R230,
R240, R243, R248), the reasons a step can stop, and the state after reset. -/

namespace Sys2Proof.Machine

/-- The engine's phase (R42). -/
inductive Phase
  | idle
  | busy
deriving DecidableEq, Repr

/-- The closed list of error codes of R200; codes 9 to 15 are reserved and never written (DEDUCED, log 24). -/
inductive ErrCode
  | none
  | dimension
  | sizeMismatch
  /-- reserved, never raised (R203) -/
  | notFound
  /-- reserved, never raised (R203) -/
  | format
  | io
  | illegalCmd
  | range
  | overlap
deriving DecidableEq, Repr

/-- The command parameters latched at acceptance (R43, R113). -/
structure Snap where
  cmd : Word
  w : Dim
  h : Dim
  srcLen : Word
  src0 : Word
  src1 : Word
  src2 : Word
  dst0 : Word
  dst1 : Word
  dst2 : Word
  pixIn : Pix
deriving DecidableEq, Repr

/-- The snapshot that the model holds when the spec leaves it undefined (R230; I19; log 6). It is never read while IDLE. -/
def Snap.zero : Snap := ⟨0, 0, 0, 0, 0, 0, 0, 0, 0, 0, 0⟩

/-- The six region indices of R117, SRC0 = 0 to DST2 = 5. -/
inductive Slot
  | src0
  | src1
  | src2
  | dst0
  | dst1
  | dst2
deriving DecidableEq, Repr

/-- A region of a command: which one it is, its base address and its length (R67, R92). -/
structure Region where
  slot : Slot
  base : Word
  len : Nat
deriving DecidableEq, Repr

/-- A command accepted whose completion the host has not yet observed (R240, R243), with PIX_OUT as it was at acceptance. -/
structure Pending where
  snap : Snap
  pixBefore : Pix
deriving DecidableEq, Repr

/-- What an agent outside gets back from one of its accesses (R41, R210, R248). -/
inductive Response
  | readData (v : Word)
  | writeOk
  /-- bus error response to a CSR read, with its data (R41) -/
  | readError (data : Word)
  /-- bus error response to a CSR write (R41) -/
  | writeError
  /-- the reset input is asserted: no CSR access is answered (R230) -/
  | noAnswer
  | memData (b : Byte)
  | memDone
  | irqLevel (level : Bool)
deriving DecidableEq, Repr

/-- System memory: (address, byte) pairs with strictly rising addresses, none equal to what an unlisted byte reads as. -/
abbrev Memory := List Host.Cell

/-- A set of byte addresses, strictly rising. -/
abbrev AddrSet := List Nat

structure State where
  /-- CTRL.IRQ_EN (R23) -/
  irqEn : Bool
  /-- IDLE or BUSY; STATUS.BUSY reads it (R42) -/
  phase : Phase
  /-- STATUS.DONE (R25) -/
  done : Bool
  /-- STATUS.ERR (R25) -/
  err : Bool
  /-- STATUS.DROP (R25) -/
  drop : Bool
  /-- the CMD read-back (R27) -/
  cmd : Word
  /-- ERR_CODE.CODE (R28) -/
  errCode : ErrCode
  /-- ERR_ARG0 (R29) -/
  errArg0 : Word
  /-- ERR_ARG1 (R30) -/
  errArg1 : Word
  /-- WIDTH.W (R31) -/
  width : Dim
  /-- HEIGHT.H (R32) -/
  height : Dim
  /-- SRC_LEN (R33) -/
  srcLen : Word
  /-- SRC0_ADDR to SRC2_ADDR (R34) -/
  src0 : Word
  src1 : Word
  src2 : Word
  /-- DST0_ADDR to DST2_ADDR (R35) -/
  dst0 : Word
  dst1 : Word
  dst2 : Word
  /-- PIX_IN[23:0] (R36) -/
  pixIn : Pix
  /-- PIX_OUT[23:0] (R37) -/
  pixOut : Pix
  /-- the snapshot of the running command (R43) -/
  snap : Snap
  /-- the reset input is asserted (R230; log 18) -/
  resetPin : Bool
  /-- system memory (R20) -/
  mem : Memory
  /-- bytes the host has written and not written back, when DMA_COHERENT is false (R78; log 12) -/
  dirty : AddrSet
  /-- bytes the CORE has written and the host not invalidated, when DMA_COHERENT is false (R78; log 12) -/
  stale : AddrSet
  /-- accepted commands whose completion the host has not observed, newest first (R240, R243) -/
  unobserved : List Pending
  /-- the coming steps of the agents, the next one first (R110; log 1) -/
  inputs : List Event
  /-- what the agents outside have read, newest first (R248; log 16) -/
  responses : List Response
  /-- the number of the step, for free values (log 4) -/
  draws : Nat
  /-- the parameters of R8 (log 3) -/
  plat : Platform
deriving DecidableEq, Repr

/-- Why a run is faulted; a faulted run never reaches a final state (R240, R248). -/
inductive Fault
  /-- Raised by another agent's write, or write-back, of byte `a` of a source region whose command's completion the host
  has not observed (R240; I5). Safe: the spec says to fault the run at the offending access. -/
  | sourceRace (a : Nat)
  /-- Raised by another agent's read or write of byte `a` of such a command's destination region (R240; I5). Safe. -/
  | destinationRace (a : Nat)
  /-- Raised by the completion, or by the abort by a reset, of a command whose region touches memory with side effects (R65;
  I13). Safe: the spec treats it as a host-duty violation, as I5 (log 13). -/
  | deviceRegion
deriving DecidableEq, Repr

/-- Why the model gives a step no meaning. -/
inductive Refusal
  /-- An instruction not modelled yet. Safe. No arm of exec answers it: all eleven commands have their meaning. -/
  | notModelled (mnemonic : String)
  /-- Raised by an access at a bus address outside the CSR window: not the CORE's but another device's, of which the spec
  says nothing (R20, R81; log 14). Safe. -/
  | outsideCsrWindow (addr : Nat)
deriving DecidableEq, Repr

/-- The answer of a step. -/
abbrev Result := Host.Outcome State Fault Refusal

/-- The state when the reset input has been released, on a given platform (R230; the table at the end of 10_state.md). -/
def State.resetOn (p : Platform) : State where
  irqEn := false
  phase := .idle
  done := false
  err := false
  drop := false
  cmd := 0#32
  errCode := .none
  errArg0 := 0#32
  errArg1 := 0#32
  width := 0#15
  height := 0#15
  srcLen := 0#32
  src0 := 0#32
  src1 := 0#32
  src2 := 0#32
  dst0 := 0#32
  dst1 := 0#32
  dst2 := 0#32
  pixIn := 0#24
  pixOut := 0#24
  snap := Snap.zero
  resetPin := false
  mem := []
  dirty := []
  stale := []
  unobserved := []
  inputs := []
  responses := []
  draws := 0
  plat := p

/-- The machine right after reset. -/
def State.reset : State := State.resetOn Platform.standard

end Sys2Proof.Machine
end

