-- ==== Sys2Proof/Machine/Ops.lean ====
section
/-! DEFINITION. The named operations over memory and registers: reading and writing bytes, sets of addresses, the latch and
the acceptance of a command (R112, R113), its successful end (R120) and its end with an error (R121). -/

namespace Sys2Proof.Machine

/-! ### Memory -/

/-- What a byte that memory does not list reads as. DESIGN CHOICE (log 5): the spec gives no initial contents. -/
def Memory.unlisted : Byte := 0#8

/-- MemRead(a, 1) (R11, R64). -/
def Memory.read (m : Memory) (a : Nat) : Byte :=
  match m with
  | [] => Memory.unlisted
  | (b, v) :: t => if a = b then v else Memory.read t a

/-- A cell in front of a memory, left out when its byte is what an unlisted address reads as. -/
def Memory.consCell (a : Nat) (v : Byte) (m : Memory) : Memory :=
  if v = Memory.unlisted then m else (a, v) :: m

/-- MemWrite(a, 1, v), keeping the canonical form (R11, R64). -/
def Memory.write (m : Memory) (a : Nat) (v : Byte) : Memory :=
  match m with
  | [] => Memory.consCell a v []
  | (b, w) :: t =>
    if a < b then Memory.consCell a v ((b, w) :: t)
    else if a = b then Memory.consCell a v t
    else (b, w) :: Memory.write t a v

/-- MemWrite(base, n, f 0 … f (n-1)) as single bytes (R11, R64). -/
def Memory.writeN (m : Memory) (base : Nat) (f : Nat → Byte) (n : Nat) : Memory :=
  match n with
  | 0 => m
  | k + 1 => Memory.write (Memory.writeN m base f k) (base + k) (f k)

/-- The canonical form from address `lo` on. -/
def Memory.wfFrom (lo : Nat) (m : Memory) : Bool :=
  match m with
  | [] => true
  | (a, v) :: t => decide (lo ≤ a) && decide (a < memSize) && decide (v ≠ Memory.unlisted) && Memory.wfFrom (a + 1) t

/-- Addresses strictly rising and inside the 2^32 bytes (R20), no byte equal to what an unlisted address reads as. -/
def Memory.wf (m : Memory) : Bool := Memory.wfFrom 0 m

/-! ### Sets of addresses -/

def AddrSet.has (s : AddrSet) (a : Nat) : Bool :=
  match s with
  | [] => false
  | b :: t => a == b || AddrSet.has t a

def AddrSet.insert (s : AddrSet) (a : Nat) : AddrSet :=
  match s with
  | [] => [a]
  | b :: t => if a < b then a :: b :: t else if a = b then b :: t else b :: AddrSet.insert t a

def AddrSet.insertN (s : AddrSet) (base n : Nat) : AddrSet :=
  match n with
  | 0 => s
  | k + 1 => AddrSet.insert (AddrSet.insertN s base k) (base + k)

/-- The elements outside [base, base + n). -/
def AddrSet.dropRange (s : AddrSet) (base n : Nat) : AddrSet :=
  s.filter (fun a => decide (a < base) || decide (base + n ≤ a))

def AddrSet.wfFrom (lo : Nat) (s : AddrSet) : Bool :=
  match s with
  | [] => true
  | a :: t => decide (lo ≤ a) && decide (a < memSize) && AddrSet.wfFrom (a + 1) t

/-- Strictly rising, inside the 2^32 bytes. -/
def AddrSet.wf (s : AddrSet) : Bool := AddrSet.wfFrom 0 s

def AddrRange.has (r : AddrRange) (a : Nat) : Bool := decide (r.base ≤ a) && decide (a < r.base + r.len)

/-! ### Bus behaviour -/

/-- Direction as ERR_ARG1 records it: 0 for a read, 1 for a write (R202). -/
def dirCode (d : Dir) : Word :=
  match d with
  | .read => 0#32
  | .write => 1#32

/-- BusOK(a, d): the access completes without a bus error (R83). -/
def busOk (p : Platform) (a : Nat) (d : Dir) : Bool :=
  !p.busFaults.any (fun f => decide (f.dir = d) && AddrRange.has f.range a)

/-- Whether byte `a` is memory with side effects (R65). -/
def isDevice (p : Platform) (a : Nat) : Bool := p.devices.any (fun r => AddrRange.has r a)

/-! ### Errors: what "taking an exception" is on this hardware -/

/-- The code of ERR_CODE.CODE (R200). -/
def ErrCode.code (e : ErrCode) : BitVec 4 :=
  match e with
  | .none => 0#4
  | .dimension => 1#4
  | .sizeMismatch => 2#4
  | .notFound => 3#4
  | .format => 4#4
  | .io => 5#4
  | .illegalCmd => 6#4
  | .range => 7#4
  | .overlap => 8#4

/-- `raise code(arg0, arg1)`: the error entry of R121 and R209. There is no vector, no saved pc and no mode change, and
no return (R209, R212): the host clears ERR, or starts the next command. -/
def State.raise (s : State) (code : ErrCode) (arg0 arg1 : Word) : State :=
  { s with phase := .idle, err := true, errCode := code, errArg0 := arg0, errArg1 := arg1 }

/-- `finish_ok()`: the completion of R120 beside its writes. -/
def State.finishOk (s : State) : State := { s with phase := .idle, done := true }

/-! ### Acceptance -/

/-- `latch(c)` (R113). -/
def State.latch (s : State) (c : Word) : Snap where
  cmd := c
  w := s.width
  h := s.height
  srcLen := s.srcLen
  src0 := s.src0
  src1 := s.src1
  src2 := s.src2
  dst0 := s.dst0
  dst1 := s.dst1
  dst2 := s.dst2
  pixIn := s.pixIn

/-- The acceptance of command word `c` (R112). The duty of R240 begins here, so the command joins `unobserved`. -/
def State.accept (s : State) (c : Word) : State :=
  { s with
    snap := s.latch c, cmd := c, done := false, err := false, errCode := .none, errArg0 := 0#32, errArg1 := 0#32,
    phase := .busy, unobserved := ⟨s.latch c, s.pixOut⟩ :: s.unobserved }

/-- A host write to CMD: dropped while BUSY (R111), accepted while IDLE (R112). -/
def State.writeCmd (s : State) (c : Word) : State :=
  match s.phase with
  | .busy => { s with drop := true }
  | .idle => s.accept c

/-! ### The step's bookkeeping -/

/-- One event of `inputs` is taken, and the step gets its own number for free values (log 1, 4). -/
def State.tick (s : State) : State := { s with inputs := s.inputs.tail, draws := s.draws + 1 }

/-- An agent outside gets its answer (R248). -/
def State.respond (s : State) (r : Response) : State := { s with responses := r :: s.responses }

end Sys2Proof.Machine
end

