-- ==== Sys2Proof/Machine/Control.lean ====
section
/-! DEFINITION. The NOP command (40_command_cycle.md R125, R126). -/

namespace Sys2Proof.Machine

/-- NOP: `finish_ok()` (R125). -/
def execNop (s : State) : Result := .next s.finishOk

end Sys2Proof.Machine
end

