-- ==== Sys2Proof/Machine/Binary32.lean ====
section
/-! DEFINITION. The binary32 primitives of 00_scope.md R13, the exact ones of R14, and the quantisation of R15.

A binary32 value is held as a whole number of units of 2^-149, the least positive binary32 value, so that sums and products
are computed exactly and rounded once. There is no infinity and no NaN: with the coefficients of R141 every magnitude is
below 2^10 (R13, R143). The sign of a zero is not kept: no rule can observe it (log 7). -/

namespace Sys2Proof.Machine

/-- A binary32 value, in units of 2^-149 (log 7). -/
structure F32 where
  units : Int
deriving DecidableEq, Repr

/-- The number of units in 1, that is 2^149. -/
def f32One : Nat := 2 ^ 149

/-- n / d rounded to the nearest whole number, ties to even (R13). -/
def roundEven (n d : Nat) : Nat :=
  let q := n / d
  let r := n % d
  if 2 * r < d then q else if d < 2 * r then q + 1 else q + q % 2

/-- n / d units rounded to 24 significant bits, ties to even; below 2^24 units to a whole unit, so subnormals are kept (R13). -/
def f32Mag (n d : Nat) : Nat :=
  let k := Nat.log2 (n / d) - 23
  roundEven n (d * 2 ^ k) * 2 ^ k

/-- `f32` of n / d units (R13). -/
def f32Round (n : Int) (d : Nat) : F32 :=
  if n < 0 then ⟨-(f32Mag n.natAbs d : Int)⟩ else ⟨(f32Mag n.natAbs d : Int)⟩

/-- A whole number as a binary32 value. -/
def f32OfInt (n : Int) : F32 := f32Round (n * f32One) 1

/-- F(k) for a literal of n millionths (R13, R141). -/
def f32OfMillionths (n : Int) : F32 := f32Round (n * f32One) 1000000

/-- A byte enters the arithmetic as its exact value (R13). -/
def f32OfByte (b : Byte) : F32 := ⟨(b.toNat : Int) * f32One⟩

def fmul (a b : F32) : F32 := f32Round (a.units * b.units) f32One
def fadd (a b : F32) : F32 := f32Round (a.units + b.units) 1
def fsub (a b : F32) : F32 := f32Round (a.units - b.units) 1

/-- `q8` of a binary32 value: clamp to [0, 255], then truncate (R15). -/
def q8 (x : F32) : Byte := BitVec.ofNat 8 (min (x.units.toNat / f32One) 255)

/-- `qn`: `q8` of a whole number of millionths (R15, R144). -/
def qn (n : Int) : Byte := BitVec.ofNat 8 (min (n.toNat / 1000000) 255)

end Sys2Proof.Machine
end

