-- ==== Sys2Proof/WellFormed.lean ====
section
/-! DEFINITION. Well-formed command words and CSR accesses (30_encoding.md R90, R91, R94; 10_state.md R41). The eleven
constructors of Instr carry no operand, so every Instr term is well formed; what can be ill formed is the word. -/

namespace Sys2Proof

/-- The reserved bits [31:4] must be 0 (R90). -/
def CmdWord.resOk (c : CmdWord) : Bool := c.res == 0#28

/-- OP is one of the eleven operation codes; 0xB to 0xF are reserved (R91, R94). -/
def CmdWord.opOk (c : CmdWord) : Bool := decide (c.op.toNat ≤ 10)

/-- A legal command word (R91, R94). -/
def CmdWord.wf (c : CmdWord) : Bool := c.resOk && c.opOk

/-- A CSR access that behaves as the CSR's own rule says: 32 bits wide, at an offset that is a multiple of 4 (R41). -/
def csrAccessOk (off : Nat) (width : Width) : Bool :=
  decide (width = .w32) && decide (off % 4 = 0)

/-- Every command is well formed: the command word has no operand field (R92, R93). -/
def Instr.wf (i : Instr) : Bool :=
  match i with
  | .nop => true
  | .encode => true
  | .decode => true
  | .rgb2yuv => true
  | .yuv2rgb => true
  | .subsample => true
  | .upsample => true
  | .pack => true
  | .unpack => true
  | .pixRgb2yuv => true
  | .pixYuv2rgb => true

end Sys2Proof
end

