-- ==== Sys2Proof/Decode.lean ====
section
/-! DEFINITION. The decoder and the encoder of the command word (30_encoding.md R90, R91, R94, R95; opcode_table.json). -/

namespace Sys2Proof

/-- Why a word is no command; every such word is ILLEGAL (R94). -/
inductive Reject
  /-- some bit of [31:4] is set -/
  | reservedBits
  /-- OP is 0xB to 0xF -/
  | reservedOp
  /-- not the four bytes of a command word: a CMD write is always one 32-bit word (R90) -/
  | notOneWord
deriving DecidableEq, Repr

/-- A row of the opcode map: the word is matched under the mask (opcode_table.json). -/
structure OpRow where
  pattern : Word
  mask : Word
  instr : Instr
deriving DecidableEq, Repr

/-- The opcode map of R91; every row's mask is 0xFFFFFFFF (R95). -/
def opcodeMap : List OpRow :=
  [ ⟨0x00000000#32, 0xFFFFFFFF#32, .nop⟩,
    ⟨0x00000001#32, 0xFFFFFFFF#32, .encode⟩,
    ⟨0x00000002#32, 0xFFFFFFFF#32, .decode⟩,
    ⟨0x00000003#32, 0xFFFFFFFF#32, .rgb2yuv⟩,
    ⟨0x00000004#32, 0xFFFFFFFF#32, .yuv2rgb⟩,
    ⟨0x00000005#32, 0xFFFFFFFF#32, .subsample⟩,
    ⟨0x00000006#32, 0xFFFFFFFF#32, .upsample⟩,
    ⟨0x00000007#32, 0xFFFFFFFF#32, .pack⟩,
    ⟨0x00000008#32, 0xFFFFFFFF#32, .unpack⟩,
    ⟨0x00000009#32, 0xFFFFFFFF#32, .pixRgb2yuv⟩,
    ⟨0x0000000A#32, 0xFFFFFFFF#32, .pixYuv2rgb⟩ ]

def OpRow.matches (r : OpRow) (c : Word) : Bool := c &&& r.mask == r.pattern

/-- The fields of a command word (R90). -/
def CmdWord.ofWord (c : Word) : CmdWord where
  op := c.extractLsb' 0 4
  res := c.extractLsb' 4 28

def CmdWord.toWord (c : CmdWord) : Word := c.res ++ c.op

/-- The decoder: a total function on 32-bit words (R95). -/
def decode (c : Word) : Except Reject Instr :=
  match opcodeMap.find? (fun r => r.matches c) with
  | some r => .ok r.instr
  | none => .error (if (CmdWord.ofWord c).resOk then .reservedOp else .reservedBits)

/-- Four bytes as a CSR word: the CSR port is little-endian (R61). -/
def wordOfBytes (b0 b1 b2 b3 : Byte) : Word := b3 ++ b2 ++ b1 ++ b0

/-- The decoder on the bytes of a CMD write, lowest CSR byte first (R61, R90). -/
def decodeBytes (bytes : List Byte) : Except Reject Instr :=
  match bytes with
  | [b0, b1, b2, b3] => decode (wordOfBytes b0 b1 b2 b3)
  | _ => .error .notOneWord

/-- The word of a command (R91). -/
def encode (i : Instr) : Word :=
  match i with
  | .nop => 0x00000000#32
  | .encode => 0x00000001#32
  | .decode => 0x00000002#32
  | .rgb2yuv => 0x00000003#32
  | .yuv2rgb => 0x00000004#32
  | .subsample => 0x00000005#32
  | .upsample => 0x00000006#32
  | .pack => 0x00000007#32
  | .unpack => 0x00000008#32
  | .pixRgb2yuv => 0x00000009#32
  | .pixYuv2rgb => 0x0000000A#32

/-- A table word of `nbits` bits, the bits above it zero. -/
def tableWord (nbits w : Nat) : Word := BitVec.ofNat 32 (w % 2 ^ nbits)

/-- The little-endian bytes of a word (R61). -/
def bytesOfWord (c : Word) : List Byte :=
  [c.extractLsb' 0 8, c.extractLsb' 8 8, c.extractLsb' 16 8, c.extractLsb' 24 8]

/-- What the decoder reads from a table word. A command is always one 32-bit word (R90). -/
def decodeTableWord (nbits w : Nat) : Option Instr :=
  if nbits ≤ 32 then (decodeBytes (bytesOfWord (tableWord nbits w))).toOption else none

end Sys2Proof
end

