-- ==== Sys2Proof/Machine/Operands.lean ====
section
/-! DEFINITION. The operands of a command, read from the snapshot: the regions of R92, the assembly of R93, the source bytes
(R68, R78), and the buffer layouts of 20_memory.md R70 to R73. -/

namespace Sys2Proof.Machine

/-- Region index of R117. -/
def Slot.index (r : Slot) : Nat :=
  match r with
  | .src0 => 0
  | .src1 => 1
  | .src2 => 2
  | .dst0 => 3
  | .dst1 => 4
  | .dst2 => 5

def Slot.isDst (r : Slot) : Bool :=
  match r with
  | .src0 => false
  | .src1 => false
  | .src2 => false
  | .dst0 => true
  | .dst1 => true
  | .dst2 => true

/-- The address CSR of a region, as latched (R92, R93). -/
def Snap.addr (n : Snap) (r : Slot) : Word :=
  match r with
  | .src0 => n.src0
  | .src1 => n.src1
  | .src2 => n.src2
  | .dst0 => n.dst0
  | .dst1 => n.dst1
  | .dst2 => n.dst2

/-- W and H as natural numbers (R93), and S = W·H (R92). -/
def Snap.wid (n : Snap) : Nat := n.w.toNat
def Snap.hei (n : Snap) : Nat := n.h.toNat
def Snap.area (n : Snap) : Nat := n.wid * n.hei

/-- The pixel operands C0, C1 and C2 of PIX_IN (R36, R93). -/
def Snap.pix0 (n : Snap) : Byte := n.pixIn.extractLsb' 0 8
def Snap.pix1 (n : Snap) : Byte := n.pixIn.extractLsb' 8 8
def Snap.pix2 (n : Snap) : Byte := n.pixIn.extractLsb' 16 8

/-- Three components as PIX_OUT holds them, C0 lowest (R37). -/
def packPix (c0 c1 c2 : Byte) : Pix := c2 ++ c1 ++ c0

def Snap.region (n : Snap) (r : Slot) (len : Nat) : Region := ⟨r, n.addr r, len⟩

/-- The regions of each command, in index order (R92). -/
def regions (i : Instr) (n : Snap) : List Region :=
  match i with
  | .nop => []
  | .encode => [n.region .src0 (3 * n.area), n.region .dst0 (3 * n.area / 2)]
  | .decode => [n.region .src0 (3 * n.area / 2), n.region .dst0 (3 * n.area)]
  | .rgb2yuv => [n.region .src0 (3 * n.area), n.region .dst0 n.area, n.region .dst1 n.area, n.region .dst2 n.area]
  | .yuv2rgb => [n.region .src0 n.area, n.region .src1 n.area, n.region .src2 n.area, n.region .dst0 (3 * n.area)]
  | .subsample => [n.region .src0 n.area, n.region .dst0 (n.area / 4)]
  | .upsample => [n.region .src0 (n.area / 4), n.region .dst0 n.area]
  | .pack => [n.region .src0 n.area, n.region .src1 (n.area / 4), n.region .src2 (n.area / 4), n.region .dst0 (3 * n.area / 2)]
  | .unpack => [n.region .src0 (3 * n.area / 2), n.region .dst0 n.area, n.region .dst1 (n.area / 4), n.region .dst2 (n.area / 4)]
  | .pixRgb2yuv => []
  | .pixYuv2rgb => []

/-- The dimensions pass the evenness check (R115). -/
def Snap.even (n : Snap) : Bool := decide (n.wid % 2 = 0) && decide (n.hei % 2 = 0)

/-- The regions of the running command (R48): those of R92 when the word is legal and the dimensions are even, since the
lengths are computed only then (R92). DEDUCED (log 9). -/
def inFlight (n : Snap) : List Region :=
  match decode n.cmd with
  | .ok i => if n.even then regions i n else []
  | .error _ => []

/-- Whether the command of a snapshot is a pixel command (R120). -/
def Snap.isPixel (n : Snap) : Bool := decide (n.cmd = encode .pixRgb2yuv) || decide (n.cmd = encode .pixYuv2rgb)

/-- Byte `a` is in the region, computed without wrap-around (R67). -/
def Region.has (r : Region) (a : Nat) : Bool := decide (r.base.toNat ≤ a) && decide (a < r.base.toNat + r.len)

/-- The addresses of a region (R67). -/
def Region.addrs (r : Region) : List Nat := (List.range r.len).map (fun k => r.base.toNat + k)

/-- The direction of a region's DMA accesses: sources are read, destinations written (R68, R69). -/
def Region.dir (r : Region) : Dir := if r.slot.isDst then .write else .read

/-- The length of a region inside the address space; the whole of it once the range check has passed (R67, log 9). -/
def Region.clipped (r : Region) : Nat := min r.len (memSize - r.base.toNat)

/-- The byte at offset `k` of a source region as the DMA reads it. A byte the host has not written back, when the DMA is not
coherent, is unspecified: a free value (R78; log 12). -/
def State.sourceByte (s : State) (r : Slot) (k : Nat) : Byte :=
  let a := (s.snap.addr r).toNat + k
  if AddrSet.has s.dirty a then Config.freeByte s.draws (r.index * memSize + k) else Memory.read s.mem a

/-! ### Planes and their layouts. A plane is written P row column (R11). -/

abbrev Plane := Nat → Nat → Byte

/-- A buffer seen through a pitch: the sample at row, column is at offset row·pitch + column (R71, R72). -/
def planeOf (pitch : Nat) (bytes : Nat → Byte) : Plane := fun row col => bytes (row * pitch + col)

/-- The byte at offset `k` of the row-major buffer of a plane with this pitch (R71, R72). -/
def planeByte (pitch : Nat) (p : Plane) (k : Nat) : Byte := p (k / pitch) (k % pitch)

end Sys2Proof.Machine
end

