-- ==== Sys2Proof/Machine/Command.lean ====
section
/-! DEFINITION. The validation of a command and the completion of a memory command (40_command_cycle.md R114 to R124). -/

namespace Sys2Proof.Machine

/-- An error to raise: `raise code(arg0, arg1)` (R12). -/
structure Raise where
  code : ErrCode
  arg0 : Word
  arg1 : Word
deriving DecidableEq, Repr

/-- The evenness check (R115). -/
def evenCheck (n : Snap) : Option Raise :=
  if n.even then none else some ⟨.dimension, n.w.setWidth 32, n.h.setWidth 32⟩

/-- The expected byte length of an NV12 buffer (R116). -/
def Snap.nv12Len (n : Snap) : Nat := n.area * 3 / 2

/-- The source length check of DECODE and UNPACK (R116). -/
def lengthCheck (n : Snap) : Option Raise :=
  if n.srcLen.toNat = n.nv12Len then none else some ⟨.sizeMismatch, BitVec.ofNat 32 n.nv12Len, n.srcLen⟩

/-- The first region, in index order, that passes 2^32 (R117). -/
def rangeCheck (rs : List Region) : Option Raise :=
  match rs.find? (fun r => decide (memSize < r.base.toNat + r.len)) with
  | some r => some ⟨.range, r.base, BitVec.ofNat 32 r.len⟩
  | none => none

/-- Two non-empty regions overlap (R119). -/
def Region.overlaps (a b : Region) : Bool :=
  decide (0 < a.len) && decide (0 < b.len) &&
    decide (a.base.toNat < b.base.toNat + b.len) && decide (b.base.toNat < a.base.toNat + a.len)

/-- The first overlapping pair in lexicographic order. In index order the sources come first, so the pairs of R119, a source
with a destination and two distinct destinations, are those whose second region is a destination. -/
def firstOverlap (rs : List Region) : Option (Region × Region) :=
  match rs with
  | [] => none
  | a :: rest =>
    match rest.find? (fun b => b.slot.isDst && Region.overlaps a b) with
    | some b => some (a, b)
    | none => firstOverlap rest

/-- The overlap check (R119). -/
def overlapCheck (rs : List Region) : Option Raise :=
  match firstOverlap rs with
  | some (a, b) => some ⟨.overlap, BitVec.ofNat 32 a.slot.index, BitVec.ofNat 32 b.slot.index⟩
  | none => none

/-- Checks 2 to 5 of R114 in their order, for a memory command; the first that fails wins (R208). -/
def validate (i : Instr) (lenChecked : Bool) (n : Snap) : Option Raise :=
  match evenCheck n with
  | some e => some e
  | none =>
    match (if lenChecked then lengthCheck n else none) with
    | some e => some e
    | none =>
      match rangeCheck (regions i n) with
      | some e => some e
      | none => overlapCheck (regions i n)

/-- The set Bad of R123: the accesses of the regions that get a bus error (R206). -/
def badAccesses (p : Platform) (rs : List Region) : List (Nat × Dir) :=
  rs.flatMap (fun r => (r.addrs.filter (fun a => !busOk p a r.dir)).map (fun a => (a, r.dir)))

/-- One access drawn from Bad; which one is unspecified when there are several (R206; I2; log 23). -/
def pickBad (draw : Nat) (bad : List (Nat × Dir)) : Option (Nat × Dir) :=
  match bad with
  | [] => none
  | [x] => some x
  | x :: y :: rest => some ((x :: y :: rest).getD (Config.freeIndex draw % (x :: y :: rest).length) x)

/-- Some byte of the regions is memory with side effects (R65). -/
def touchesDevice (p : Platform) (rs : List Region) : Bool := rs.any (fun r => r.addrs.any (fun a => isDevice p a))

/-- The two commands whose source length is checked (R116). -/
def Instr.checksLength (i : Instr) : Bool := decide (i = .decode) || decide (i = .unpack)

/-- The command of the snapshot passes checks 1 to 5 of R114, so that it makes DMA accesses, and a byte of its regions is memory
with side effects (R65). -/
def State.accessesDevice (s : State) : Bool :=
  match decode s.snap.cmd with
  | .error _ => false
  | .ok i =>
    match validate i (Instr.checksLength i) s.snap with
    | some _ => false
    | none => touchesDevice s.plat (regions i s.snap)

/-- The CORE writes the bytes `f` of one destination region. When the DMA is not coherent the host's cached copies of
them are no longer to be trusted (R78; log 12). -/
def State.dmaWrite (s : State) (r : Region) (f : Nat → Byte) : State :=
  { s with
    mem := Memory.writeN s.mem r.base.toNat f r.clipped
    dirty := if s.plat.dmaCoherent then s.dirty else AddrSet.dropRange s.dirty r.base.toNat r.clipped
    stale := if s.plat.dmaCoherent then s.stale else AddrSet.insertN s.stale r.base.toNat r.clipped }

/-- The CORE writes every destination region of the list; source regions are left alone (R69, R120). -/
def State.dmaWriteAll (s : State) (rs : List Region) (f : Slot → Nat → Byte) : State :=
  match rs with
  | [] => s
  | r :: rest => (if r.slot.isDst then s.dmaWrite r (f r.slot) else s).dmaWriteAll rest f

/-- Every byte of every destination region becomes a free value, each drawn on its own (R206, R231; I3, I4). -/
def State.scramble (s : State) (rs : List Region) : State :=
  s.dmaWriteAll rs (fun r k => Config.freeByte s.draws (r.index * memSize + k))

/-- A memory command's result: from the platform, the snapshot and the source bytes, the byte of each offset of each
destination region. -/
abbrev Produce := Platform → Snap → (Slot → Nat → Byte) → Slot → Nat → Byte

/-- The completion of a memory command (R114, R120, R121, R123), as one atomic update (R76; DEDUCED, log 8). Memory with side
effects faults the run after checks 1 to 5 (R65; DESIGN CHOICE, log 13). -/
def memoryCommand (i : Instr) (lenChecked : Bool) (out : Produce) (s : State) : Result :=
  match validate i lenChecked s.snap with
  | some e => .next (s.raise e.code e.arg0 e.arg1)
  | none =>
    if touchesDevice s.plat (regions i s.snap) then .fault .deviceRegion
    else
      match pickBad s.draws (badAccesses s.plat (regions i s.snap)) with
      | some (a, d) => .next ((s.scramble (regions i s.snap)).raise .io (BitVec.ofNat 32 a) (dirCode d))
      | none => .next ((s.dmaWriteAll (regions i s.snap) (out s.plat s.snap s.sourceByte)).finishOk)

end Sys2Proof.Machine
end

