-- ==== Sys2Proof/Machine/Color.lean ====
section
/-! DEFINITION. The colour transform (41_color_transform.md): `rgbToYuv` and `yuvToRgb` under both values of ColorArith, and
the commands RGB2YUV, YUV2RGB, PIX_RGB2YUV and PIX_YUV2RGB. -/

namespace Sys2Proof.Machine

structure Yuv where
  y : Byte
  u : Byte
  v : Byte
deriving DecidableEq, Repr

structure Rgb where
  r : Byte
  g : Byte
  b : Byte
deriving DecidableEq, Repr

/-- `rgbToYuv_F32`, left to right as written (R142). -/
def rgbToYuvF32 (k : Coeffs) (r g b : Byte) : Yuv where
  y := q8 (fadd (fadd (fmul (f32OfMillionths k.kyr) (f32OfByte r)) (fmul (f32OfMillionths k.kyg) (f32OfByte g)))
    (fmul (f32OfMillionths k.kyb) (f32OfByte b)))
  u := q8 (fadd (fadd (fadd (fmul (f32OfMillionths k.kur) (f32OfByte r)) (fmul (f32OfMillionths k.kug) (f32OfByte g)))
    (fmul (f32OfMillionths k.kub) (f32OfByte b))) (f32OfInt k.off))
  v := q8 (fadd (fadd (fadd (fmul (f32OfMillionths k.kvr) (f32OfByte r)) (fmul (f32OfMillionths k.kvg) (f32OfByte g)))
    (fmul (f32OfMillionths k.kvb) (f32OfByte b))) (f32OfInt k.off))

/-- `rgbToYuv_EXACT` (R144). -/
def rgbToYuvExact (k : Coeffs) (r g b : Byte) : Yuv where
  y := qn (k.kyr * r.toNat + k.kyg * g.toNat + k.kyb * b.toNat)
  u := qn (k.kur * r.toNat + k.kug * g.toNat + k.kub * b.toNat + 1000000 * k.off)
  v := qn (k.kvr * r.toNat + k.kvg * g.toNat + k.kvb * b.toNat + 1000000 * k.off)

/-- `yuvToRgb_F32`, left to right as written (R145). -/
def yuvToRgbF32 (k : Coeffs) (y u v : Byte) : Rgb :=
  let du := fsub (f32OfByte u) (f32OfInt k.off)
  let dv := fsub (f32OfByte v) (f32OfInt k.off)
  { r := q8 (fadd (f32OfByte y) (fmul (f32OfMillionths k.krv) dv))
    g := q8 (fsub (fsub (f32OfByte y) (fmul (f32OfMillionths k.kgu) du)) (fmul (f32OfMillionths k.kgv) dv))
    b := q8 (fadd (f32OfByte y) (fmul (f32OfMillionths k.kbu) du)) }

/-- `yuvToRgb_EXACT` (R146). -/
def yuvToRgbExact (k : Coeffs) (y u v : Byte) : Rgb where
  r := qn (1000000 * y.toNat + k.krv * (v.toNat - k.off))
  g := qn (1000000 * y.toNat - k.kgu * (u.toNat - k.off) - k.kgv * (v.toNat - k.off))
  b := qn (1000000 * y.toNat + k.kbu * (u.toNat - k.off))

/-- The forward transform under the platform's ColorArith (R140, R142, R144). -/
def rgbToYuv (p : Platform) (r g b : Byte) : Yuv :=
  match p.colorArith with
  | .f32Ltr => rgbToYuvF32 p.coeffs r g b
  | .exact => rgbToYuvExact p.coeffs r g b

/-- The inverse transform under the platform's ColorArith (R140, R145, R146). -/
def yuvToRgb (p : Platform) (y u v : Byte) : Rgb :=
  match p.colorArith with
  | .f32Ltr => yuvToRgbF32 p.coeffs y u v
  | .exact => yuvToRgbExact p.coeffs y u v

/-- Component `c` of a pixel in an RGB24 buffer: R, G, B at increasing addresses (R70). -/
def Rgb.byte (p : Rgb) (c : Nat) : Byte :=
  match c with
  | 0 => p.r
  | 1 => p.g
  | _ => p.b

/-- The transform of pixel (x, y) of an RGB24 buffer of width `w` (R70, R150). -/
def yuvAt (p : Platform) (w : Nat) (rgb : Nat → Byte) (y x : Nat) : Yuv :=
  let q := 3 * (y * w + x)
  rgbToYuv p (rgb q) (rgb (q + 1)) (rgb (q + 2))

/-- The three full-resolution planes of an RGB24 buffer (R150; step 2 of R182). -/
def yPlane (p : Platform) (w : Nat) (rgb : Nat → Byte) : Plane := fun y x => (yuvAt p w rgb y x).y
def uPlane (p : Platform) (w : Nat) (rgb : Nat → Byte) : Plane := fun y x => (yuvAt p w rgb y x).u
def vPlane (p : Platform) (w : Nat) (rgb : Nat → Byte) : Plane := fun y x => (yuvAt p w rgb y x).v

/-- The byte at offset `k` of the RGB24 buffer of three full planes (R70, R151; step 5 of R192). -/
def rgbByte (p : Platform) (w : Nat) (yp up vp : Plane) (k : Nat) : Byte :=
  let y := (k / 3) / w
  let x := (k / 3) % w
  (yuvToRgb p (yp y x) (up y x) (vp y x)).byte (k % 3)

/-- Selects what each destination region gets; a source slot is never asked for. -/
def perDst (d0 d1 d2 : Nat → Byte) (r : Slot) (k : Nat) : Byte :=
  match r with
  | .dst0 => d0 k
  | .dst1 => d1 k
  | .dst2 => d2 k
  | .src0 => Memory.unlisted
  | .src1 => Memory.unlisted
  | .src2 => Memory.unlisted

/-- RGB2YUV's destination bytes (R150). -/
def rgb2yuvBytes : Produce := fun p n src =>
  perDst (planeByte n.wid (yPlane p n.wid (src .src0)))
    (planeByte n.wid (uPlane p n.wid (src .src0)))
    (planeByte n.wid (vPlane p n.wid (src .src0)))

/-- YUV2RGB's destination bytes (R151). DST1 and DST2 are not written. -/
def yuv2rgbBytes : Produce := fun p n src =>
  let d := rgbByte p n.wid (planeOf n.wid (src .src0)) (planeOf n.wid (src .src1)) (planeOf n.wid (src .src2))
  perDst d d d

/-- RGB2YUV (R150). -/
def execRgb2yuv (s : State) : Result := memoryCommand .rgb2yuv false rgb2yuvBytes s

/-- YUV2RGB (R151). -/
def execYuv2rgb (s : State) : Result := memoryCommand .yuv2rgb false yuv2rgbBytes s

/-- The result of PIX_RGB2YUV (R152). -/
def pixRgb2yuvResult (p : Platform) (n : Snap) : Pix :=
  let q := rgbToYuv p n.pix0 n.pix1 n.pix2
  packPix q.y q.u q.v

/-- The result of PIX_YUV2RGB (R153). -/
def pixYuv2rgbResult (p : Platform) (n : Snap) : Pix :=
  let q := yuvToRgb p n.pix0 n.pix1 n.pix2
  packPix q.r q.g q.b

/-- PIX_RGB2YUV (R152): PIX_OUT is written in the completion step. -/
def execPixRgb2yuv (s : State) : Result :=
  .next ({ s with pixOut := pixRgb2yuvResult s.plat s.snap }.finishOk)

/-- PIX_YUV2RGB (R153). -/
def execPixYuv2rgb (s : State) : Result :=
  .next ({ s with pixOut := pixYuv2rgbResult s.plat s.snap }.finishOk)

end Sys2Proof.Machine
end

