-- ==== Sys2Proof/Machine/Chroma.lean ====
section
/-! DEFINITION. The chroma sampler (42_chroma_sampler.md): point subsampling, nearest-neighbour upsampling, and the commands
SUBSAMPLE and UPSAMPLE. -/

namespace Sys2Proof.Machine

/-- Point sampling at the top left of each 2×2 block (R170, R176). -/
def subsample (p : Plane) : Plane := fun i j => p (2 * i) (2 * j)

/-- Nearest-neighbour replication (R171). -/
def upsample (q : Plane) : Plane := fun y x => q (y / 2) (x / 2)

/-- SUBSAMPLE's destination bytes (R172): a quarter plane of pitch W/2 (R72). -/
def subsampleBytes : Produce := fun _ n src =>
  let d := planeByte (n.wid / 2) (subsample (planeOf n.wid (src .src0)))
  perDst d d d

/-- UPSAMPLE's destination bytes (R173): a plane of pitch W from a quarter plane of pitch W/2. -/
def upsampleBytes : Produce := fun _ n src =>
  let d := planeByte n.wid (upsample (planeOf (n.wid / 2) (src .src0)))
  perDst d d d

/-- SUBSAMPLE (R172). -/
def execSubsample (s : State) : Result := memoryCommand .subsample false subsampleBytes s

/-- UPSAMPLE (R173). -/
def execUpsample (s : State) : Result := memoryCommand .upsample false upsampleBytes s

end Sys2Proof.Machine
end

