-- ==== Sys2Proof/Machine/Nv12.lean ====
section
/-! DEFINITION. The NV12 plane packer and unpacker, the encoder and the decoder (43_nv12_encoder.md, 44_nv12_decoder.md):
the functions `pack` and `unpack`, and the commands PACK, ENCODE, UNPACK and DECODE. -/

namespace Sys2Proof.Machine

/-- `pack`: the byte at offset `k` of the NV12 buffer of width `w` and height `h` (R73, R180). -/
def packByte (w h : Nat) (yp uq vq : Plane) (k : Nat) : Byte :=
  if k < w * h then yp (k / w) (k % w)
  else
    let i := (k - w * h) / w
    let c := (k - w * h) % w
    if c % 2 = 0 then uq i (c / 2) else vq i (c / 2)

/-- `unpack`: the Y plane of an NV12 buffer (R190). -/
def unpackY (w : Nat) (n : Nat → Byte) : Plane := fun y x => n (y * w + x)

/-- `unpack`: the U quarter plane (R190). -/
def unpackU (w h : Nat) (n : Nat → Byte) : Plane := fun i j => n (w * h + i * w + 2 * j)

/-- `unpack`: the V quarter plane (R190). -/
def unpackV (w h : Nat) (n : Nat → Byte) : Plane := fun i j => n (w * h + i * w + 2 * j + 1)

/-- PACK's destination bytes (R181): the sources are a plane and two quarter planes (R71, R72). -/
def packBytes : Produce := fun _ n src =>
  let d := packByte n.wid n.hei (planeOf n.wid (src .src0)) (planeOf (n.wid / 2) (src .src1)) (planeOf (n.wid / 2) (src .src2))
  perDst d d d

/-- ENCODE's destination bytes: transform, subsample, pack (R182). -/
def encodeBytes : Produce := fun p n src =>
  let d := packByte n.wid n.hei (yPlane p n.wid (src .src0)) (subsample (uPlane p n.wid (src .src0)))
    (subsample (vPlane p n.wid (src .src0)))
  perDst d d d

/-- UNPACK's destination bytes (R191). -/
def unpackBytes : Produce := fun _ n src =>
  perDst (planeByte n.wid (unpackY n.wid (src .src0)))
    (planeByte (n.wid / 2) (unpackU n.wid n.hei (src .src0)))
    (planeByte (n.wid / 2) (unpackV n.wid n.hei (src .src0)))

/-- DECODE's destination bytes: unpack, upsample, inverse transform (R192). -/
def decodeBytesOf : Produce := fun p n src =>
  let d := rgbByte p n.wid (unpackY n.wid (src .src0)) (upsample (unpackU n.wid n.hei (src .src0)))
    (upsample (unpackV n.wid n.hei (src .src0)))
  perDst d d d

/-- PACK (R181). -/
def execPack (s : State) : Result := memoryCommand .pack false packBytes s

/-- ENCODE (R182). -/
def execEncode (s : State) : Result := memoryCommand .encode false encodeBytes s

/-- UNPACK, with the source length check (R116, R191). -/
def execUnpack (s : State) : Result := memoryCommand .unpack true unpackBytes s

/-- DECODE, with the source length check (R116, R192). -/
def execDecode (s : State) : Result := memoryCommand .decode true decodeBytesOf s

end Sys2Proof.Machine
end

