-- ==== Sys2Proof/Machine/Dispatch.lean ====
section
/-! DEFINITION. The completion of a legal command, one arm per constructor of Instr (40_command_cycle.md R120, R123). -/

namespace Sys2Proof.Machine

def exec (i : Instr) (s : State) : Host.Outcome State Fault Refusal :=
  match i with
  | .nop => Sys2Proof.Machine.execNop s
  | .encode => Sys2Proof.Machine.execEncode s
  | .decode => Sys2Proof.Machine.execDecode s
  | .rgb2yuv => Sys2Proof.Machine.execRgb2yuv s
  | .yuv2rgb => Sys2Proof.Machine.execYuv2rgb s
  | .subsample => Sys2Proof.Machine.execSubsample s
  | .upsample => Sys2Proof.Machine.execUpsample s
  | .pack => Sys2Proof.Machine.execPack s
  | .unpack => Sys2Proof.Machine.execUnpack s
  | .pixRgb2yuv => Sys2Proof.Machine.execPixRgb2yuv s
  | .pixYuv2rgb => Sys2Proof.Machine.execPixYuv2rgb s

end Sys2Proof.Machine
end

