-- ==== Sys2Proof/Machine/Flags.lean ====
section
/-! DEFINITION. The flags and the words that show them: STATUS (R25, R26), CTRL (R23), ERR_CODE (R28), and the interrupt
output (R210). No command writes a condition code (R45). -/

namespace Sys2Proof.Machine

/-- STATUS.BUSY reads 1 exactly when the phase is BUSY (R25, R42). -/
def State.busy (s : State) : Bool :=
  match s.phase with
  | .busy => true
  | .idle => false

/-- STATUS as read: bits 3 to 0 are DROP, ERR, DONE and BUSY, the others 0 (R25). -/
def State.statusWord (s : State) : Word :=
  0#28 ++ BitVec.ofBool s.drop ++ BitVec.ofBool s.err ++ BitVec.ofBool s.done ++ BitVec.ofBool s.busy

/-- A write of `v` to STATUS clears each of DONE, ERR and DROP whose bit is 1 (R26). -/
def State.clearStatus (s : State) (v : Word) : State :=
  { s with done := s.done && !v.getLsbD 1, err := s.err && !v.getLsbD 2, drop := s.drop && !v.getLsbD 3 }

/-- CTRL as read: bit 0 is IRQ_EN, SOFT_RESET and the reserved bits read 0 (R23). -/
def State.ctrlWord (s : State) : Word := 0#31 ++ BitVec.ofBool s.irqEn

/-- ERR_CODE as read (R28). -/
def State.errCodeWord (s : State) : Word := 0#28 ++ s.errCode.code

/-- The level of the interrupt output (R210). Its delivery is the platform's (R211; log 22). -/
def State.irq (s : State) : Bool := s.irqEn && (s.done || s.err)

end Sys2Proof.Machine
end

