-- ==== Sys2Proof/Machine/Csr.lean ====
section
/-! DEFINITION. The CSR map and the host's CSR accesses (10_state.md R20 to R41), reset (70_reset_and_hazards.md R230 to R232),
and what a read of PIX_OUT returns before completion is observed (R243). -/

namespace Sys2Proof.Machine

/-- The defined CSRs (10_state.md section 2). -/
inductive Csr
  | id
  | version
  | ctrl
  | status
  | cmd
  | errCode
  | errArg0
  | errArg1
  | width
  | height
  | srcLen
  | src0Addr
  | src1Addr
  | src2Addr
  | dst0Addr
  | dst1Addr
  | dst2Addr
  | pixIn
  | pixOut
deriving DecidableEq, Repr

/-- The offset of a CSR in the window (10_state.md section 2). -/
def csrOffset (c : Csr) : Nat :=
  match c with
  | .id => 0x00
  | .version => 0x04
  | .ctrl => 0x08
  | .status => 0x0C
  | .cmd => 0x10
  | .errCode => 0x14
  | .errArg0 => 0x18
  | .errArg1 => 0x1C
  | .width => 0x20
  | .height => 0x24
  | .srcLen => 0x28
  | .src0Addr => 0x30
  | .src1Addr => 0x34
  | .src2Addr => 0x38
  | .dst0Addr => 0x40
  | .dst1Addr => 0x44
  | .dst2Addr => 0x48
  | .pixIn => 0x50
  | .pixOut => 0x54

/-- The defined CSRs in the order of the map. -/
def csrList : List Csr :=
  [.id, .version, .ctrl, .status, .cmd, .errCode, .errArg0, .errArg1, .width, .height, .srcLen,
    .src0Addr, .src1Addr, .src2Addr, .dst0Addr, .dst1Addr, .dst2Addr, .pixIn, .pixOut]

/-- The CSR at an offset; none is a reserved offset (R38). -/
def csrAt (off : Nat) : Option Csr := csrList.find? (fun c => csrOffset c == off)

/-- R21. -/
def idValue : Word := 0x3231564E#32

/-- R22: MAJOR = 0, MINOR = 1. -/
def versionValue : Word := 0x00000001#32

/-- Byte `k` of a CSR value, the byte at offset o + k: the CSR port is little-endian (R61). -/
def csrByte (v : Word) (k : Nat) : Byte := v.extractLsb' (8 * k) 8

/-! ### Reset -/

/-- Every CSR at its reset value, the phase IDLE (R230). Memory and the agents outside are left alone (R231); no command is
running or waiting to be observed. -/
def State.coreReset (s : State) : State :=
  { s with
    irqEn := false, phase := .idle, done := false, err := false, drop := false, cmd := 0#32
    errCode := .none, errArg0 := 0#32, errArg1 := 0#32
    width := 0#15, height := 0#15, srcLen := 0#32
    src0 := 0#32, src1 := 0#32, src2 := 0#32, dst0 := 0#32, dst1 := 0#32, dst2 := 0#32
    pixIn := 0#24, pixOut := 0#24, snap := Snap.zero, unobserved := [] }

/-- A running command is aborted: each byte of its destination regions holds an unspecified value (R231; I4). -/
def State.abort (s : State) : State :=
  match s.phase with
  | .busy => s.scramble (inFlight s.snap)
  | .idle => s

/-- The effect of a reset, hardware or soft, on the CORE and on a running command (R230 to R232). -/
def State.resetCore (s : State) : State := s.abort.coreReset

/-- A reset would abort a running command that may already have accessed memory with side effects (R65, R68; I13). Such a run is
faulted, as at completion (DESIGN CHOICE, log 13). -/
def State.abortFaults (s : State) : Bool := s.busy && s.accessesDevice

/-! ### Reading -/

/-- The result of the pixel command that is running, if one is (R120). -/
def State.runningPixel (s : State) : List Pix :=
  match s.phase with
  | .idle => []
  | .busy =>
    if s.snap.cmd = encode .pixRgb2yuv then [pixRgb2yuvResult s.plat s.snap]
    else if s.snap.cmd = encode .pixYuv2rgb then [pixYuv2rgbResult s.plat s.snap]
    else []

/-- What a read of PIX_OUT may return: the value held and, for every pixel command whose completion the host has not
observed, the value before it and the value it gives (R243; I6; log 11). -/
def State.pixOutValues (s : State) : List Pix :=
  s.pixOut :: (s.runningPixel ++ (s.unobserved.filter (fun p => p.snap.isPixel)).map (fun p => p.pixBefore))

/-- The value a read of PIX_OUT returns: the only one, or one drawn (R243). -/
def State.pixOutRead (s : State) : Pix :=
  match s.pixOutValues with
  | [] => s.pixOut
  | [v] => v
  | v :: w :: rest => (v :: w :: rest).getD (Config.freeIndex s.draws % (v :: w :: rest).length) v

/-- The value of a CSR as read (R21 to R39): reserved bits read as 0. -/
def State.csrValue (s : State) (c : Csr) : Word :=
  match c with
  | .id => idValue
  | .version => versionValue
  | .ctrl => s.ctrlWord
  | .status => s.statusWord
  | .cmd => s.cmd
  | .errCode => s.errCodeWord
  | .errArg0 => s.errArg0
  | .errArg1 => s.errArg1
  | .width => s.width.setWidth 32
  | .height => s.height.setWidth 32
  | .srcLen => s.srcLen
  | .src0Addr => s.src0
  | .src1Addr => s.src1
  | .src2Addr => s.src2
  | .dst0Addr => s.dst0
  | .dst1Addr => s.dst1
  | .dst2Addr => s.dst2
  | .pixIn => s.pixIn.setWidth 32
  | .pixOut => s.pixOutRead.setWidth 32

/-- The value read at an offset; a reserved offset reads 0 (R38). -/
def State.readOffset (s : State) (off : Nat) : Word :=
  match csrAt off with
  | some c => s.csrValue c
  | none => 0#32

/-- A read of STATUS that returns BUSY = 0 lets the host observe every completion (R76, R240; log 10). No other read changes
anything. -/
def State.observeStatus (s : State) (off : Nat) : State :=
  match csrAt off with
  | some .status => if s.busy then s else { s with unobserved := [] }
  | _ => s

/-! ### Writing -/

/-- The effect of a 32-bit write of `v` to a CSR (R21 to R39); reserved bits of `v` are discarded. -/
def State.writeCsr (s : State) (c : Csr) (v : Word) : State :=
  match c with
  | .id => s
  | .version => s
  | .ctrl => if v.getLsbD 1 then { s with irqEn := v.getLsbD 0 }.resetCore else { s with irqEn := v.getLsbD 0 }
  | .status => s.clearStatus v
  | .cmd => s.writeCmd v
  | .errCode => s
  | .errArg0 => s
  | .errArg1 => s
  | .width => { s with width := v.setWidth 15 }
  | .height => { s with height := v.setWidth 15 }
  | .srcLen => { s with srcLen := v }
  | .src0Addr => { s with src0 := v }
  | .src1Addr => { s with src1 := v }
  | .src2Addr => { s with src2 := v }
  | .dst0Addr => { s with dst0 := v }
  | .dst1Addr => { s with dst1 := v }
  | .dst2Addr => { s with dst2 := v }
  | .pixIn => { s with pixIn := v.setWidth 24 }
  | .pixOut => s

/-- A write at an offset; at a reserved offset it is ignored (R38). -/
def State.writeOffset (s : State) (off : Nat) (v : Word) : State :=
  match csrAt off with
  | some c => s.writeCsr c v
  | none => s

/-! ### The CSR port -/

/-- The offset in the window of a bus address, if it is in the window (R20, R96). -/
def windowOffset (base addr : Nat) : Option Nat :=
  if base ≤ addr ∧ addr < base + windowSize then some (addr - base) else none

/-- A CSR read by the host (R41). While the reset input is asserted it is not answered (R230). -/
def csrRead (addr : Nat) (width : Width) (s : State) : Result :=
  match windowOffset s.plat.csrBase addr with
  | none => .refused (.outsideCsrWindow addr)
  | some off =>
    if s.resetPin then .next (s.respond .noAnswer)
    else if csrAccessOk off width then .next ((s.observeStatus off).respond (.readData (s.readOffset off)))
    else .next (s.respond (.readError 0#32))

/-- The write of `v` at `off` is a soft reset (R23, R232). -/
def softResets (off : Nat) (v : Word) : Bool := decide (csrAt off = some .ctrl) && v.getLsbD 1

/-- A CSR write by the host (R41). While the reset input is asserted it is not answered (R230). -/
def csrWrite (addr : Nat) (width : Width) (v : Word) (s : State) : Result :=
  match windowOffset s.plat.csrBase addr with
  | none => .refused (.outsideCsrWindow addr)
  | some off =>
    if s.resetPin then .next (s.respond .noAnswer)
    else if csrAccessOk off width then
      if softResets off v && s.abortFaults then .fault .deviceRegion
      else .next ((s.writeOffset off v).respond .writeOk)
    else .next (s.respond .writeError)

end Sys2Proof.Machine
end

