-- ==== Sys2Proof/Machine/HostBus.lean ====
section
/-! DEFINITION. The other accesses of the agents outside the engine: memory with the buffer duty of R240, cache maintenance
(R78), the interrupt output (R210), the reset input (R230) and the platform's bus behaviour (R83). -/

namespace Sys2Proof.Machine

/-- Byte `a` is in a source region of a command whose completion the host has not observed (R240). -/
def State.guardedSource (s : State) (a : Nat) : Bool :=
  s.unobserved.any (fun p => (inFlight p.snap).any (fun r => !r.slot.isDst && Region.has r a))

/-- Byte `a` is in a destination region of a command whose completion the host has not observed (R240). -/
def State.guardedDestination (s : State) (a : Nat) : Bool :=
  s.unobserved.any (fun p => (inFlight p.snap).any (fun r => r.slot.isDst && Region.has r a))

/-- The byte an agent outside reads. A stale byte of the host's is unspecified: a free value (R78; I14). -/
def State.outsideByte (s : State) (agent : Agent) (a : Nat) : Byte :=
  match agent with
  | .host => if AddrSet.has s.stale a then Config.freeByte s.draws a else Memory.read s.mem a
  | .other => Memory.read s.mem a

/-- A memory read by an agent outside: no byte of a guarded destination region may be read (R240). It always completes
(DESIGN CHOICE, log 15). -/
def memRead (agent : Agent) (addr : Word) (s : State) : Result :=
  if s.guardedDestination addr.toNat then .fault (.destinationRace addr.toNat)
  else .next (s.respond (.memData (s.outsideByte agent addr.toNat)))

/-- The host's write goes to its cache first when the DMA is not coherent (R78; log 12). -/
def State.markWrite (s : State) (agent : Agent) (a : Nat) : State :=
  match agent with
  | .host =>
    if s.plat.dmaCoherent then s
    else { s with dirty := AddrSet.insert s.dirty a, stale := AddrSet.dropRange s.stale a 1 }
  | .other => s

/-- A memory write by an agent outside: no byte of a guarded source or destination region may be written (R240). -/
def memWrite (agent : Agent) (addr : Word) (v : Byte) (s : State) : Result :=
  if s.guardedDestination addr.toNat then .fault (.destinationRace addr.toNat)
  else if s.guardedSource addr.toNat then .fault (.sourceRace addr.toNat)
  else .next ({ s with mem := Memory.write s.mem addr.toNat v }.markWrite agent addr.toNat |>.respond .memDone)

/-- The host's dirty bytes of a range. -/
def State.dirtyIn (s : State) (r : AddrRange) : List Nat := s.dirty.filter (fun a => AddrRange.has r a)

/-- Write-back of a range: the host's bytes reach memory, which is a write of them (R78, R240; log 12). -/
def cacheWriteBack (r : AddrRange) (s : State) : Result :=
  match (s.dirtyIn r).find? (fun a => s.guardedDestination a) with
  | some a => .fault (.destinationRace a)
  | none =>
    match (s.dirtyIn r).find? (fun a => s.guardedSource a) with
    | some a => .fault (.sourceRace a)
    | none => .next { s with dirty := AddrSet.dropRange s.dirty r.base r.len }

/-- Each byte of a list becomes a free value. -/
def Memory.forget (m : Memory) (draw : Nat) (as : List Nat) : Memory :=
  match as with
  | [] => m
  | a :: rest => Memory.write (Memory.forget m draw rest) a (Config.freeByte draw a)

/-- Invalidation of a range: the host's cached copies are dropped. A byte the host had written and not written back is lost
or not: it is unspecified from then on (R78; log 12). It is no write in the sense of R240: also in a guarded region it faults nothing,
and the byte becomes a free value (DESIGN CHOICE, log 27; a write-back does fault). -/
def cacheInvalidate (r : AddrRange) (s : State) : Result :=
  .next
    { s with
      mem := Memory.forget s.mem s.draws (s.dirtyIn r)
      dirty := AddrSet.dropRange s.dirty r.base r.len
      stale := AddrSet.dropRange s.stale r.base r.len }

/-- The host looks at the interrupt output; seeing it asserted, it has observed the completion (R210, R240; log 10). -/
def irqSample (s : State) : Result :=
  .next ({ s with unobserved := if s.irq then [] else s.unobserved }.respond (.irqLevel s.irq))

/-- The reset input changes (R230, R231). The CORE is in its reset state while it is asserted and when it is released (log 18). -/
def driveResetPin (level : Bool) (s : State) : Result :=
  if s.abortFaults then .fault .deviceRegion else .next { s.resetCore with resetPin := level }

/-- The platform's bus behaviour changes; it is fixed for the duration of a command (R83; log 19). -/
def busChange (faults : List BusFault) (s : State) : Result :=
  match s.phase with
  | .busy => .next s
  | .idle => .next { s with plat := { s.plat with busFaults := faults } }

end Sys2Proof.Machine
end

