-- ==== Sys2Proof/Machine/Engine.lean ====
section
/-! DEFINITION. The engine's completion step, which finds the command in the snapshot, and the turn of each agent
(40_command_cycle.md R110, R120 to R123). -/

namespace Sys2Proof.Machine

/-- The completion of the running command, legal or not (R114, R123, R204). -/
def complete (s : State) : Result :=
  match decode s.snap.cmd with
  | .ok i => exec i s
  | .error _ => .next (s.raise .illegalCmd s.snap.cmd 0#32)

/-- The engine's turn: its completion step is enabled exactly while BUSY (R110). -/
def engineTurn (s : State) : Result :=
  match s.phase with
  | .busy => complete s
  | .idle => .next s

/-- With no event left the engine still completes the running command (R246; log 20); while IDLE it waits (R233). -/
def quietTurn (s : State) : Result :=
  match s.phase with
  | .busy => complete s.tick
  | .idle => .next s

/-- The turn of the agent that `e` names, in the state after `e` has been taken from `inputs`. -/
def turn (e : Event) (s : State) : Result :=
  match e with
  | .engine => engineTurn s
  | .csrRead addr width => csrRead addr width s
  | .csrWrite addr width v => csrWrite addr width v s
  | .memRead agent addr => memRead agent addr s
  | .memWrite agent addr v => memWrite agent addr v s
  | .cacheWriteBack r => cacheWriteBack r s
  | .cacheInvalidate r => cacheInvalidate r s
  | .irqSample => irqSample s
  | .resetPin level => driveResetPin level s
  | .busChange faults => busChange faults s

/-- The word `c` accepted as the command that the very next step completes (R112; log 2). -/
def State.loadCommand (s : State) (c : Word) : State :=
  { s.accept c with inputs := .engine :: s.inputs, resetPin := false }

end Sys2Proof.Machine
end

