-- ==== Sys2Proof/Machine/Step.lean ====
section
/-! DEFINITION. One step of the machine: the turn of the agent that `inputs` names next (40_command_cycle.md R110). A step has
no duration (R245; log 21). -/

namespace Sys2Proof.Machine

def step (s : State) : Host.Outcome State Fault Refusal :=
  match s.inputs with
  | [] => Sys2Proof.Machine.quietTurn s
  | e :: _ => Sys2Proof.Machine.turn e s.tick

/-- The CORE fetches nothing (R62): its instruction is the command word of the snapshot, which the acceptance of a CMD write
latches. So placing an instruction is accepting its word, with the engine's completion step next (log 2). -/
def State.withFetchWord (s : State) (nbits w : Nat) : State := s.loadCommand (tableWord nbits w)

end Sys2Proof.Machine
end

