-- ==== Sys2Proof/Machine/HostOps.lean ====
section
/-! DEFINITION. The host's written forms as lists of events (30_encoding.md R96, R97). Labels and branches are the host's own
control flow, outside the CORE (R96): a `wait` is given with the number of times it reads STATUS
(DESIGN CHOICE, log 25). -/

namespace Sys2Proof.Machine

/-- `wr NAME, v` (R96). -/
def opWr (p : Platform) (c : Csr) (v : Word) : List Event := [.csrWrite (p.csrBase + csrOffset c) .w32 v]

/-- `rd NAME` (R96). -/
def opRd (p : Platform) (c : Csr) : List Event := [.csrRead (p.csrBase + csrOffset c) .w32]

/-- `mem a: b0 b1 …` (R96). -/
def opMem (a : Word) (bs : List Byte) : List Event :=
  match bs with
  | [] => []
  | b :: rest => .memWrite .host a b :: opMem (a + 1#32) rest

/-- `memrd a, n` (R96). -/
def opMemrd (a : Word) (n : Nat) : List Event := (List.range n).map (fun k => .memRead .host (a + BitVec.ofNat 32 k))

/-- `cmd MNEMONIC` (R97). -/
def opCmd (p : Platform) (i : Instr) : List Event := opWr p .cmd (encode i)

/-- `wait`, reading STATUS `n` times (R97). -/
def opWait (p : Platform) (n : Nat) : List Event := (List.replicate n (opRd p .status)).flatten

/-- `run MNEMONIC`, the completion falling after `n` reads that see BUSY = 1 and before the last (R97). -/
def opRun (p : Platform) (i : Instr) (n : Nat) : List Event := opCmd p i ++ opWait p n ++ [.engine] ++ opWait p 1

/-- `dim W, H` (R97). -/
def opDim (p : Platform) (w h : Word) : List Event := opWr p .width w ++ opWr p .height h

/-- `clr` (R97). -/
def opClr (p : Platform) : List Event := opWr p .status 0x0000000E#32

/-- `pix c0, c1, c2` (R97). -/
def opPix (p : Platform) (c0 c1 c2 : Byte) : List Event := opWr p .pixIn (0#8 ++ c2 ++ c1 ++ c0)

end Sys2Proof.Machine
end

