-- ==== Sys2Proof/Safety.lean ====
section
/-! DEFINITION. The terms claims use: when a run has ended (70_reset_and_hazards.md R248), when the buffers of a command are
usable (R67, R83, R119, R234), and the invariant of the machine. -/

namespace Sys2Proof.Machine

/-- A run has ended (R248): no step of any agent is left and the phase is IDLE. A state with the phase BUSY is not final, and a
faulted run has no state at all. R248 asks only that the host has finished its last operation; that listed steps of other agents, of
the reset input, of the platform and of an idle engine must have been taken too is the model's choice (DESIGN CHOICE, log 28). -/
def State.final (s : State) : Bool := s.inputs.isEmpty && !s.busy

/-- Two ranges share no byte; an empty one overlaps nothing (R119). -/
def AddrRange.apart (a b : AddrRange) : Prop :=
  a.len = 0 ∨ b.len = 0 ∨ a.base + a.len ≤ b.base ∨ b.base + b.len ≤ a.base

/-- A range lies in the 2^32 bytes, does not pass 2^32 (R67). -/
def AddrRange.fits (r : AddrRange) : Prop := r.base + r.len ≤ memSize

/-- Every byte of the range answers the DMA in this direction, and has no side effect (R65, R83). -/
def AddrRange.answers (p : Platform) (d : Dir) (r : AddrRange) : Prop :=
  ∀ a, r.base ≤ a → a < r.base + r.len → busOk p a d = true ∧ isDevice p a = false

/-- The buffers a command can run on (R114 checks 4 to 6; R65): every range inside the address space, no source overlapping
a destination, no two destinations overlapping, no bus error, no memory with side effects. Sources may overlap each other. -/
structure BuffersUsable (p : Platform) (srcs dsts : List AddrRange) : Prop where
  srcFits : ∀ r ∈ srcs, AddrRange.fits r
  dstFits : ∀ r ∈ dsts, AddrRange.fits r
  srcDst : ∀ a ∈ srcs, ∀ b ∈ dsts, AddrRange.apart a b
  dstDst : dsts.Pairwise AddrRange.apart
  srcAnswers : ∀ r ∈ srcs, AddrRange.answers p .read r
  dstAnswers : ∀ r ∈ dsts, AddrRange.answers p .write r

/-- What every state of a run satisfies. -/
structure State.Inv (s : State) : Prop where
  /-- memory in canonical form -/
  memWf : Memory.wf s.mem = true
  dirtyWf : AddrSet.wf s.dirty = true
  staleWf : AddrSet.wf s.stale = true
  /-- a coherent DMA leaves nothing to maintain (R78) -/
  coherent : s.plat.dmaCoherent = true → s.dirty = [] ∧ s.stale = []
  /-- DONE and ERR are never both 1 (R25) -/
  doneErr : ¬(s.done = true ∧ s.err = true)
  /-- while BUSY the status is clear, the error record is empty, CMD reads the running command's word, the host has not
  observed its completion, and the reset input is not asserted (R112, R27, R230, R240) -/
  running : s.phase = .busy → s.done = false ∧ s.err = false ∧ s.errCode = .none ∧ s.snap.cmd = s.cmd ∧
    s.resetPin = false ∧ ∃ p ∈ s.unobserved, p.snap = s.snap
  /-- ERR is only ever 1 with a code, DONE only without one (R28, R120, R121) -/
  errHasCode : s.err = true → s.errCode ≠ .none
  doneNoCode : s.done = true → s.errCode = .none
  /-- without a code there are no details (R29, R30, R112) -/
  noCodeNoArgs : s.errCode = .none → s.errArg0 = 0#32 ∧ s.errArg1 = 0#32
  /-- the reserved codes are never written (R203) -/
  noReservedCode : s.errCode ≠ .notFound ∧ s.errCode ≠ .format
  /-- while the reset input is asserted the CORE is in its reset state (R230) -/
  inReset : s.resetPin = true → s.coreReset = s

/-! ### The terms of claims about commands -/

/-- The eight memory commands (R115). -/
def Instr.isMemory (i : Instr) : Bool :=
  match i with
  | .nop => false
  | .encode => true
  | .decode => true
  | .rgb2yuv => true
  | .yuv2rgb => true
  | .subsample => true
  | .upsample => true
  | .pack => true
  | .unpack => true
  | .pixRgb2yuv => false
  | .pixYuv2rgb => false

/-- Byte `a` is in one of the ranges. -/
def inRanges (rs : List AddrRange) (a : Nat) : Bool := rs.any (fun r => AddrRange.has r a)

/-- `t` is `s` after a command that wrote the ranges `dsts` and completed without error (R69, R120): IDLE and DONE; every byte
outside the ranges as before; the marks of the host's cached copies changed only in the ranges, and only when the DMA is not
coherent (R78); every register, flag and other field as before. -/
structure CompletesWriting (s t : State) (dsts : List AddrRange) : Prop where
  outside : ∀ a, inRanges dsts a = false → Memory.read t.mem a = Memory.read s.mem a
  canonical : Memory.wf t.mem = true
  marksCoherent : s.plat.dmaCoherent = true → t.dirty = s.dirty ∧ t.stale = s.stale
  marksDirty : s.plat.dmaCoherent = false → ∀ a,
    AddrSet.has t.dirty a = (AddrSet.has s.dirty a && !inRanges dsts a)
  marksStale : s.plat.dmaCoherent = false → ∀ a,
    AddrSet.has t.stale a = (AddrSet.has s.stale a || inRanges dsts a)
  rest : t = { s with phase := .idle, done := true, mem := t.mem, dirty := t.dirty, stale := t.stale }

/-- The same change made to the state a step answers. -/
def mapNext (f : State → State) (r : Result) : Result :=
  match r with
  | .next t => .next (f t)
  | .fault x => .fault x
  | .refused x => .refused x

/-- Every parameter CSR replaced by the values of a snapshot (R40). -/
def State.withParams (s : State) (n : Snap) : State :=
  { s with
    width := n.w, height := n.h, srcLen := n.srcLen, src0 := n.src0, src1 := n.src1, src2 := n.src2
    dst0 := n.dst0, dst1 := n.dst1, dst2 := n.dst2, pixIn := n.pixIn }

/-- The parameter CSRs, which the host may write at any time (R40). -/
def Csr.isParameter (c : Csr) : Bool :=
  match c with
  | .id => false
  | .version => false
  | .ctrl => false
  | .status => false
  | .cmd => false
  | .errCode => false
  | .errArg0 => false
  | .errArg1 => false
  | .width => true
  | .height => true
  | .srcLen => true
  | .src0Addr => true
  | .src1Addr => true
  | .src2Addr => true
  | .dst0Addr => true
  | .dst1Addr => true
  | .dst2Addr => true
  | .pixIn => true
  | .pixOut => false

/-- The bits of a parameter CSR that are not reserved (R31 to R36). -/
def Csr.writable (c : Csr) : Word :=
  match c with
  | .width => 0x00007FFF#32
  | .height => 0x00007FFF#32
  | .pixIn => 0x00FFFFFF#32
  | .srcLen => 0xFFFFFFFF#32
  | .src0Addr => 0xFFFFFFFF#32
  | .src1Addr => 0xFFFFFFFF#32
  | .src2Addr => 0xFFFFFFFF#32
  | .dst0Addr => 0xFFFFFFFF#32
  | .dst1Addr => 0xFFFFFFFF#32
  | .dst2Addr => 0xFFFFFFFF#32
  | .id => 0#32
  | .version => 0#32
  | .ctrl => 0#32
  | .status => 0#32
  | .cmd => 0#32
  | .errCode => 0#32
  | .errArg0 => 0#32
  | .errArg1 => 0#32
  | .pixOut => 0#32

end Sys2Proof.Machine
end

