-- ==== Sys2Proof/Certificates/Slice0/Obligations.lean ====
section
/-! DEFINITION. The statements for the provers. Each docstring names the rules of spec/ it formalises.

Every statement about an instruction is about `exec i s`, the completion of the command that the snapshot of `s` describes;
`StepRunsTheDecodedCommand` carries them to a step. `s.sourceByte r k` is the byte that the DMA reads at offset `k` of a source
region: `AccessesSeeMemory` says what it is. Statements rest on no value of a free value.

Where a statement gives a whole next state, its clauses about `inputs`, `draws`, `responses` and `unobserved` speak of the model's own
bookkeeping (logs 1, 4, 16 and 10), not of a rule. -/

open Sys2Proof Sys2Proof.Machine

/-! ### Decoding -/

/-- R91, R95: a word decodes to a command exactly when it is, as a whole, that command's word; and each command's word is the
one the opcode map gives. -/
def Obligations.WordDecodesExactlyToItsCommand : Prop :=
  ∀ (c : Word) (i : Instr), decode c = .ok i ↔ c = encode i

/-- R94: every other word is rejected, alike from 0x0000000B up; by its reserved bits if any of [31:4] is set. -/
def Obligations.WordsFromElevenUpAreIllegal : Prop :=
  ∀ c : Word,
    ((∃ e, decode c = .error e) ↔ 11 ≤ c.toNat) ∧
    (decode c = .error .reservedBits ↔ 16 ≤ c.toNat) ∧
    (decode c = .error .reservedOp ↔ (11 ≤ c.toNat ∧ c.toNat < 16))

/-- R90, R61: the bytes of a CMD write, lowest CSR byte first, decode as the word does; four bytes and no other number. -/
def Obligations.CommandBytesDecodeAsTheirWord : Prop :=
  (∀ c : Word, decodeBytes (bytesOfWord c) = decode c) ∧
  (∀ bs : List Byte, bs.length ≠ 4 → decodeBytes bs = .error .notOneWord) ∧
  (∀ i : Instr, decodeTableWord 32 (encode i).toNat = some i)

/-- R91: three words of the opcode map, written out, and three illegal ones. -/
def Obligations.SampleWordsDecode : Prop :=
  decode 0x00000001#32 = .ok .encode ∧ decode 0x00000008#32 = .ok .unpack ∧ decode 0x0000000A#32 = .ok .pixYuv2rgb ∧
  decode 0x0000000B#32 = .error .reservedOp ∧ decode 0x00000011#32 = .error .reservedBits ∧
  decode 0x80000000#32 = .error .reservedBits

/-! ### The command cycle -/

/-- R110, R123: when the engine's turn comes while BUSY and the latched word decodes to `i`, the step is the completion of `i`,
after the event is taken from `inputs` and the step gets its number. R110 and R123 make that step enabled; that it is taken also when no
event is left is the model's reading of fairness (R246; DEDUCED, log 20), and the order of events is data (DESIGN CHOICE, log 1). -/
def Obligations.StepRunsTheDecodedCommand : Prop :=
  ∀ (s : State) (i : Instr), s.phase = .busy → (s.inputs = [] ∨ s.inputs.head? = some .engine) →
    decode s.snap.cmd = .ok i → step s = exec i s.tick

/-- R204, R94, R121: a latched word that is no command completes with ILLEGAL_CMD(c, 0): IDLE, ERR and the error record, and
nothing else. That the completion is the next step also when no event is left is the model's reading of fairness (R246; DEDUCED,
log 20). -/
def Obligations.IllegalWordEndsWithIllegalCmd : Prop :=
  ∀ s : State, s.phase = .busy → (s.inputs = [] ∨ s.inputs.head? = some .engine) → (∀ i, s.snap.cmd ≠ encode i) →
    step s = .next
      { s with
        phase := .idle, err := true, errCode := .illegalCmd, errArg0 := s.snap.cmd, errArg1 := 0#32
        inputs := s.inputs.tail, draws := s.draws + 1 }

/-- R110, R233: while IDLE the engine takes no step. Its turn only passes; with no event left the state stays as it
is. That an idle turn, and a step with no event left, is a step at all is the model's choice (DESIGN CHOICE, log 1). -/
def Obligations.IdleEngineTakesNoStep : Prop :=
  ∀ s : State, s.phase = .idle →
    (s.inputs = [] → step s = .next s) ∧
    (∀ rest, s.inputs = .engine :: rest → step s = .next { s with inputs := rest, draws := s.draws + 1 })

/-- R112, R113: a host write of any word to CMD while IDLE is accepted, as one atomic step. STATUS.DROP, CTRL, PIX_OUT, memory
and every parameter CSR are unchanged. The command joins those the host has not observed (R240; log 10). -/
def Obligations.CmdWriteWhileIdleIsAccepted : Prop :=
  ∀ (s : State) (c : Word) (rest : List Event), s.phase = .idle → s.resetPin = false →
    s.inputs = .csrWrite (s.plat.csrBase + 0x10) .w32 c :: rest →
    step s = .next
      { s with
        snap := { cmd := c, w := s.width, h := s.height, srcLen := s.srcLen, src0 := s.src0, src1 := s.src1, src2 := s.src2,
                  dst0 := s.dst0, dst1 := s.dst1, dst2 := s.dst2, pixIn := s.pixIn }
        cmd := c, done := false, err := false, errCode := .none, errArg0 := 0#32, errArg1 := 0#32, phase := .busy
        unobserved := { snap := { cmd := c, w := s.width, h := s.height, srcLen := s.srcLen, src0 := s.src0, src1 := s.src1,
                                  src2 := s.src2, dst0 := s.dst0, dst1 := s.dst1, dst2 := s.dst2, pixIn := s.pixIn },
                        pixBefore := s.pixOut } :: s.unobserved
        inputs := rest, draws := s.draws + 1, responses := .writeOk :: s.responses }

/-- R111: a host write of any word to CMD while BUSY changes only STATUS.DROP, which it sets to 1. -/
def Obligations.CmdWriteWhileBusyOnlySetsDrop : Prop :=
  ∀ (s : State) (c : Word) (rest : List Event), s.phase = .busy → s.resetPin = false →
    s.inputs = .csrWrite (s.plat.csrBase + 0x10) .w32 c :: rest →
    step s = .next { s with drop := true, inputs := rest, draws := s.draws + 1, responses := .writeOk :: s.responses }

/-- R122, R120, R121, R40, R112: whichever command completes, the phase is IDLE afterwards, and of DONE and ERR exactly one has
been set: with DONE the error record is as acceptance left it, with ERR it holds the code of an error that a command raises. No
command changes a parameter CSR, CTRL, STATUS.DROP, the CMD read-back, the snapshot or the reset input; and only the pixel
commands change PIX_OUT (R37). -/
def Obligations.CommandsEndIdleAndLeaveTheOtherRegisters : Prop :=
  ∀ (i : Instr) (s t : State), exec i s = .next t →
    t.phase = .idle ∧
    ((t.done = true ∧ t.err = s.err ∧ t.errCode = s.errCode ∧ t.errArg0 = s.errArg0 ∧ t.errArg1 = s.errArg1) ∨
     (t.done = s.done ∧ t.err = true ∧ t.pixOut = s.pixOut ∧
       (t.errCode = .dimension ∨ t.errCode = .sizeMismatch ∨ t.errCode = .range ∨ t.errCode = .overlap ∨ t.errCode = .io))) ∧
    t.width = s.width ∧ t.height = s.height ∧ t.srcLen = s.srcLen ∧ t.src0 = s.src0 ∧ t.src1 = s.src1 ∧ t.src2 = s.src2 ∧
    t.dst0 = s.dst0 ∧ t.dst1 = s.dst1 ∧ t.dst2 = s.dst2 ∧ t.pixIn = s.pixIn ∧ t.irqEn = s.irqEn ∧ t.drop = s.drop ∧
    t.cmd = s.cmd ∧ t.snap = s.snap ∧ t.resetPin = s.resetPin ∧ t.plat = s.plat ∧
    (i ≠ .pixRgb2yuv → i ≠ .pixYuv2rgb → t.pixOut = s.pixOut)

/-- R113, R242: a command reads only the snapshot. Whatever the parameter CSRs hold when it completes, the outcome is the same
but for those registers themselves. -/
def Obligations.CommandsReadOnlyTheSnapshot : Prop :=
  ∀ (i : Instr) (s : State) (n : Snap), exec i (s.withParams n) = mapNext (fun t => t.withParams n) (exec i s)

/-! ### Errors -/

/-- R115: a memory command with an odd W or H ends with DIMENSION(W, H) and does nothing else. With both even, 0 among them,
no command ends with DIMENSION; NOP and the pixel commands never do, and do not read W or H. -/
def Obligations.OddDimensionsEndWithDimension : Prop :=
  ∀ (i : Instr) (s : State),
    (Instr.isMemory i = true → (s.snap.w.toNat % 2 = 1 ∨ s.snap.h.toNat % 2 = 1) →
      exec i s = .next
        { s with
          phase := .idle, err := true, errCode := .dimension
          errArg0 := BitVec.ofNat 32 s.snap.w.toNat, errArg1 := BitVec.ofNat 32 s.snap.h.toNat }) ∧
    ((Instr.isMemory i = false ∨ (s.snap.w.toNat % 2 = 0 ∧ s.snap.h.toNat % 2 = 0)) →
      ∀ t, exec i s = .next t → t.errCode = .dimension → s.errCode = .dimension) ∧
    (Instr.isMemory i = false → ∀ w h : Dim,
      exec i { s with snap := { s.snap with w := w, h := h } } =
        mapNext (fun t => { t with snap := { t.snap with w := w, h := h } }) (exec i s))

/-- R116: DECODE and UNPACK with SRC_LEN ≠ W·H·3/2 end with SIZE_MISMATCH(expected, SRC_LEN) and do nothing else; with the
lengths equal they do not. The other commands ignore SRC_LEN: whatever it is, their outcome is the same. -/
def Obligations.WrongSourceLengthEndsWithSizeMismatch : Prop :=
  ∀ (i : Instr) (s : State),
    ((i = .decode ∨ i = .unpack) → s.snap.w.toNat % 2 = 0 → s.snap.h.toNat % 2 = 0 →
      (s.snap.srcLen.toNat ≠ s.snap.w.toNat * s.snap.h.toNat * 3 / 2 →
        exec i s = .next
          { s with
            phase := .idle, err := true, errCode := .sizeMismatch
            errArg0 := BitVec.ofNat 32 (s.snap.w.toNat * s.snap.h.toNat * 3 / 2), errArg1 := s.snap.srcLen }) ∧
      (s.snap.srcLen.toNat = s.snap.w.toNat * s.snap.h.toNat * 3 / 2 →
        ∀ t, exec i s = .next t → t.errCode = .sizeMismatch → s.errCode = .sizeMismatch)) ∧
    (i ≠ .decode → i ≠ .unpack → ∀ v : Word,
      exec i { s with snap := { s.snap with srcLen := v } } =
        mapNext (fun t => { t with snap := { t.snap with srcLen := v } }) (exec i s))

/-- R117: the first region in index order with base + len > 2^32 ends the command with RANGE(base, len), and nothing else
happens. With no such region, and an empty one is none, no command ends with RANGE. `regions` is the table of R92. -/
def Obligations.FirstRegionPastTheEndEndsWithRange : Prop :=
  ∀ (i : Instr) (s : State),
    (∀ (pre post : List Region) (r : Region), Instr.isMemory i = true →
      s.snap.w.toNat % 2 = 0 → s.snap.h.toNat % 2 = 0 →
      (Instr.checksLength i = true → s.snap.srcLen.toNat = s.snap.w.toNat * s.snap.h.toNat * 3 / 2) →
      regions i s.snap = pre ++ r :: post → (∀ q ∈ pre, q.base.toNat + q.len ≤ 2 ^ 32) → 2 ^ 32 < r.base.toNat + r.len →
      exec i s = .next
        { s with phase := .idle, err := true, errCode := .range, errArg0 := r.base, errArg1 := BitVec.ofNat 32 r.len }) ∧
    ((∀ q ∈ regions i s.snap, q.len = 0 ∨ q.base.toNat + q.len ≤ 2 ^ 32) →
      ∀ t, exec i s = .next t → t.errCode = .range → s.errCode = .range)

/-- R119: with every region in range, the first overlapping pair in lexicographic order, of a source and a destination or of
two destinations, ends the command with OVERLAP(a, b), and nothing else happens. With no such pair no command ends with OVERLAP:
sources may overlap each other, and an empty region overlaps nothing. -/
def Obligations.FirstOverlapEndsWithOverlap : Prop :=
  ∀ (i : Instr) (s : State),
    (∀ (pre mid post : List Region) (a b : Region), Instr.isMemory i = true →
      s.snap.w.toNat % 2 = 0 → s.snap.h.toNat % 2 = 0 →
      (Instr.checksLength i = true → s.snap.srcLen.toNat = s.snap.w.toNat * s.snap.h.toNat * 3 / 2) →
      (∀ q ∈ regions i s.snap, q.base.toNat + q.len ≤ 2 ^ 32) →
      regions i s.snap = pre ++ a :: mid ++ b :: post → b.slot.isDst = true →
      (0 < a.len ∧ 0 < b.len ∧ a.base.toNat < b.base.toNat + b.len ∧ b.base.toNat < a.base.toNat + a.len) →
      (∀ q ∈ mid, q.slot.isDst = true → AddrRange.apart ⟨a.base.toNat, a.len⟩ ⟨q.base.toNat, q.len⟩) →
      (∀ x y pre' mid' post', regions i s.snap = pre' ++ x :: mid' ++ y :: post' → pre'.length < pre.length →
        y.slot.isDst = true → AddrRange.apart ⟨x.base.toNat, x.len⟩ ⟨y.base.toNat, y.len⟩) →
      exec i s = .next
        { s with
          phase := .idle, err := true, errCode := .overlap
          errArg0 := BitVec.ofNat 32 a.slot.index, errArg1 := BitVec.ofNat 32 b.slot.index }) ∧
    ((regions i s.snap).Pairwise (fun a b => b.slot.isDst = true →
      AddrRange.apart ⟨a.base.toNat, a.len⟩ ⟨b.base.toNat, b.len⟩) →
      ∀ t, exec i s = .next t → t.errCode = .overlap → s.errCode = .overlap)

/-- R206, R83, R121: on buffers that pass validation, a bus error on some byte ends the command with IO, whose details name one
access of the regions that gets a bus error; outside the destination regions memory is unchanged, and so are the marks of the host's
cached copies (the model's cache, log 12); PIX_OUT is unchanged. What the destination bytes hold is left open. The regions hold no memory
with side effects (R65). -/
def Obligations.BusErrorEndsWithIo : Prop :=
  ∀ (i : Instr) (s : State), Instr.isMemory i = true → s.snap.w.toNat % 2 = 0 → s.snap.h.toNat % 2 = 0 →
    (Instr.checksLength i = true → s.snap.srcLen.toNat = s.snap.w.toNat * s.snap.h.toNat * 3 / 2) →
    (∀ r ∈ regions i s.snap, r.base.toNat + r.len ≤ 2 ^ 32) →
    (regions i s.snap).Pairwise (fun a b => b.slot.isDst = true →
      AddrRange.apart ⟨a.base.toNat, a.len⟩ ⟨b.base.toNat, b.len⟩) →
    (∀ r ∈ regions i s.snap, ∀ a, Region.has r a = true → isDevice s.plat a = false) →
    (∃ r ∈ regions i s.snap, ∃ a, Region.has r a = true ∧ busOk s.plat a r.dir = false) →
    ∃ t r a, exec i s = .next t ∧ r ∈ regions i s.snap ∧ Region.has r a = true ∧ busOk s.plat a r.dir = false ∧
      t = { s with
        phase := .idle, err := true, errCode := .io, errArg0 := BitVec.ofNat 32 a, errArg1 := dirCode r.dir
        mem := t.mem, dirty := t.dirty, stale := t.stale } ∧
      (∀ b, (∀ q ∈ regions i s.snap, q.slot.isDst = true → Region.has q b = false) →
        Memory.read t.mem b = Memory.read s.mem b ∧ AddrSet.has t.dirty b = AddrSet.has s.dirty b ∧
        AddrSet.has t.stale b = AddrSet.has s.stale b)

/-- R69, R121, R209: a command that ends with an error other than IO leaves every byte of memory, and PIX_OUT, as it was. -/
def Obligations.ErrorsButIoLeaveMemory : Prop :=
  ∀ (i : Instr) (s t : State), s.err = false → s.errCode = .none → exec i s = .next t → t.err = true → t.errCode ≠ .io →
    t.mem = s.mem ∧ t.dirty = s.dirty ∧ t.stale = s.stale ∧ t.pixOut = s.pixOut ∧ t.done = s.done

/-- R65, I13 (the model's choice of where, log 13): a command that passes checks 1 to 5 and has a byte of a region in memory
with side effects faults the run when it completes; and that is the only way a completion faults. While such a command is BUSY, a reset
that would abort it, hardware or soft, faults the run too, and no other reset does. -/
def Obligations.SideEffectMemoryFaultsTheRun : Prop :=
  (∀ (i : Instr) (s : State),
    (Instr.isMemory i = true → s.snap.w.toNat % 2 = 0 → s.snap.h.toNat % 2 = 0 →
      (Instr.checksLength i = true → s.snap.srcLen.toNat = s.snap.w.toNat * s.snap.h.toNat * 3 / 2) →
      (∀ r ∈ regions i s.snap, r.base.toNat + r.len ≤ 2 ^ 32) →
      (regions i s.snap).Pairwise (fun a b => b.slot.isDst = true →
        AddrRange.apart ⟨a.base.toNat, a.len⟩ ⟨b.base.toNat, b.len⟩) →
      (∃ r ∈ regions i s.snap, ∃ a, Region.has r a = true ∧ isDevice s.plat a = true) →
      exec i s = .fault .deviceRegion) ∧
    (∀ f, exec i s = .fault f → f = .deviceRegion ∧ ∃ r ∈ regions i s.snap, ∃ a, Region.has r a = true ∧ isDevice s.plat a = true)) ∧
  (∀ (s : State) (i : Instr), decode s.snap.cmd = .ok i →
    ((∃ level rest, s.inputs = .resetPin level :: rest) ∨
      (s.resetPin = false ∧ ∃ v rest, s.inputs = .csrWrite (s.plat.csrBase + 0x08) .w32 v :: rest ∧ v.getLsbD 1 = true)) →
    ((s.phase = .busy ∧ ∃ f, exec i s = .fault f) ↔ step s = .fault .deviceRegion) ∧
    ((s.phase = .idle ∨ ∃ t, exec i s = .next t) ↔ ∃ t, step s = .next t))

/-! ### Completion and result of each command -/

/-- R125: NOP completes from every state: IDLE and DONE, and nothing else changes. -/
def Obligations.NopCompletes : Prop :=
  ∀ s : State, exec .nop s = .next { s with phase := .idle, done := true }

/-- R152, R153: the pixel commands complete from every state, with the transform, or the inverse transform, of the three bytes of
PIX_IN in PIX_OUT; nothing else changes. -/
def Obligations.PixelCommandsConvertThePixel : Prop :=
  ∀ s : State,
    (∃ q : Yuv,
      q = rgbToYuv s.plat (s.snap.pixIn.extractLsb' 0 8) (s.snap.pixIn.extractLsb' 8 8) (s.snap.pixIn.extractLsb' 16 8) ∧
      exec .pixRgb2yuv s = .next { s with phase := .idle, done := true, pixOut := q.v ++ q.u ++ q.y }) ∧
    (∃ q : Rgb,
      q = yuvToRgb s.plat (s.snap.pixIn.extractLsb' 0 8) (s.snap.pixIn.extractLsb' 8 8) (s.snap.pixIn.extractLsb' 16 8) ∧
      exec .pixYuv2rgb s = .next { s with phase := .idle, done := true, pixOut := q.b ++ q.g ++ q.r })

/-- R150: RGB2YUV completes on usable buffers, with the three planes of the transform of every pixel. The clauses of
`CompletesWriting` about `dirty` and `stale` are the model's byte-wise cache (DESIGN CHOICE, log 12), not a rule. -/
def Obligations.Rgb2yuvWritesThreePlanes : Prop :=
  ∀ (s : State) (w h : Nat), Memory.wf s.mem = true → w = s.snap.w.toNat → h = s.snap.h.toNat → w % 2 = 0 → h % 2 = 0 →
    BuffersUsable s.plat [⟨s.snap.src0.toNat, 3 * (w * h)⟩]
      [⟨s.snap.dst0.toNat, w * h⟩, ⟨s.snap.dst1.toNat, w * h⟩, ⟨s.snap.dst2.toNat, w * h⟩] →
    ∃ t, exec .rgb2yuv s = .next t ∧
      CompletesWriting s t [⟨s.snap.dst0.toNat, w * h⟩, ⟨s.snap.dst1.toNat, w * h⟩, ⟨s.snap.dst2.toNat, w * h⟩] ∧
      ∀ y x, y < h → x < w → ∃ q : Yuv,
        q = rgbToYuv s.plat (s.sourceByte .src0 (3 * (y * w + x))) (s.sourceByte .src0 (3 * (y * w + x) + 1))
          (s.sourceByte .src0 (3 * (y * w + x) + 2)) ∧
        Memory.read t.mem (s.snap.dst0.toNat + (y * w + x)) = q.y ∧
        Memory.read t.mem (s.snap.dst1.toNat + (y * w + x)) = q.u ∧
        Memory.read t.mem (s.snap.dst2.toNat + (y * w + x)) = q.v

/-- R151: YUV2RGB completes on usable buffers, with the inverse transform of every sample triple; the source planes may
overlap. The clauses of `CompletesWriting` about `dirty` and `stale` are the
model's byte-wise cache (DESIGN CHOICE, log 12), not a rule. -/
def Obligations.Yuv2rgbWritesTheImage : Prop :=
  ∀ (s : State) (w h : Nat), Memory.wf s.mem = true → w = s.snap.w.toNat → h = s.snap.h.toNat → w % 2 = 0 → h % 2 = 0 →
    BuffersUsable s.plat [⟨s.snap.src0.toNat, w * h⟩, ⟨s.snap.src1.toNat, w * h⟩, ⟨s.snap.src2.toNat, w * h⟩]
      [⟨s.snap.dst0.toNat, 3 * (w * h)⟩] →
    ∃ t, exec .yuv2rgb s = .next t ∧ CompletesWriting s t [⟨s.snap.dst0.toNat, 3 * (w * h)⟩] ∧
      ∀ y x, y < h → x < w → ∃ q : Rgb,
        q = yuvToRgb s.plat (s.sourceByte .src0 (y * w + x)) (s.sourceByte .src1 (y * w + x)) (s.sourceByte .src2 (y * w + x)) ∧
        Memory.read t.mem (s.snap.dst0.toNat + 3 * (y * w + x)) = q.r ∧
        Memory.read t.mem (s.snap.dst0.toNat + 3 * (y * w + x) + 1) = q.g ∧
        Memory.read t.mem (s.snap.dst0.toNat + 3 * (y * w + x) + 2) = q.b

/-- R172, R170: SUBSAMPLE completes on usable buffers, with the top-left sample of each 2×2 block. The clauses of
`CompletesWriting` about `dirty` and `stale` are the model's byte-wise cache (DESIGN CHOICE, log 12), not a rule. -/
def Obligations.SubsampleTakesTheTopLeftSamples : Prop :=
  ∀ (s : State) (w h : Nat), Memory.wf s.mem = true → w = s.snap.w.toNat → h = s.snap.h.toNat → w % 2 = 0 → h % 2 = 0 →
    BuffersUsable s.plat [⟨s.snap.src0.toNat, w * h⟩] [⟨s.snap.dst0.toNat, w * h / 4⟩] →
    ∃ t, exec .subsample s = .next t ∧ CompletesWriting s t [⟨s.snap.dst0.toNat, w * h / 4⟩] ∧
      ∀ i j, i < h / 2 → j < w / 2 →
        Memory.read t.mem (s.snap.dst0.toNat + (i * (w / 2) + j)) = s.sourceByte .src0 (2 * i * w + 2 * j)

/-- R173, R171: UPSAMPLE completes on usable buffers, with each sample repeated into its 2×2 block. The clauses of
`CompletesWriting` about `dirty` and `stale` are the model's byte-wise cache (DESIGN CHOICE, log 12), not a rule. -/
def Obligations.UpsampleRepeatsEachSample : Prop :=
  ∀ (s : State) (w h : Nat), Memory.wf s.mem = true → w = s.snap.w.toNat → h = s.snap.h.toNat → w % 2 = 0 → h % 2 = 0 →
    BuffersUsable s.plat [⟨s.snap.src0.toNat, w * h / 4⟩] [⟨s.snap.dst0.toNat, w * h⟩] →
    ∃ t, exec .upsample s = .next t ∧ CompletesWriting s t [⟨s.snap.dst0.toNat, w * h⟩] ∧
      ∀ y x, y < h → x < w →
        Memory.read t.mem (s.snap.dst0.toNat + (y * w + x)) = s.sourceByte .src0 (y / 2 * (w / 2) + x / 2)

/-- R181, R180: PACK completes on usable buffers, with the Y plane and then U and V interleaved; the sources may overlap. The
clauses of `CompletesWriting` about `dirty` and `stale` are the model's byte-wise cache (DESIGN CHOICE, log 12), not a rule. -/
def Obligations.PackInterleavesThePlanes : Prop :=
  ∀ (s : State) (w h : Nat), Memory.wf s.mem = true → w = s.snap.w.toNat → h = s.snap.h.toNat → w % 2 = 0 → h % 2 = 0 →
    BuffersUsable s.plat [⟨s.snap.src0.toNat, w * h⟩, ⟨s.snap.src1.toNat, w * h / 4⟩, ⟨s.snap.src2.toNat, w * h / 4⟩]
      [⟨s.snap.dst0.toNat, 3 * (w * h) / 2⟩] →
    ∃ t, exec .pack s = .next t ∧ CompletesWriting s t [⟨s.snap.dst0.toNat, 3 * (w * h) / 2⟩] ∧
      (∀ y x, y < h → x < w →
        Memory.read t.mem (s.snap.dst0.toNat + (y * w + x)) = s.sourceByte .src0 (y * w + x)) ∧
      (∀ i j, i < h / 2 → j < w / 2 →
        Memory.read t.mem (s.snap.dst0.toNat + (w * h + i * w + 2 * j)) = s.sourceByte .src1 (i * (w / 2) + j) ∧
        Memory.read t.mem (s.snap.dst0.toNat + (w * h + i * w + 2 * j + 1)) = s.sourceByte .src2 (i * (w / 2) + j))

/-- R182, R183: ENCODE completes on usable buffers, with the closed form of R183: Y of every pixel, U and V of the top-left
pixel of each 2×2 block. The clauses of `CompletesWriting` about `dirty` and `stale` are the
model's byte-wise cache (DESIGN CHOICE, log 12), not a rule. -/
def Obligations.EncodeWritesNv12 : Prop :=
  ∀ (s : State) (w h : Nat), Memory.wf s.mem = true → w = s.snap.w.toNat → h = s.snap.h.toNat → w % 2 = 0 → h % 2 = 0 →
    BuffersUsable s.plat [⟨s.snap.src0.toNat, 3 * (w * h)⟩] [⟨s.snap.dst0.toNat, 3 * (w * h) / 2⟩] →
    ∃ t, exec .encode s = .next t ∧ CompletesWriting s t [⟨s.snap.dst0.toNat, 3 * (w * h) / 2⟩] ∧
      (∀ y x, y < h → x < w → ∃ q : Yuv,
        q = rgbToYuv s.plat (s.sourceByte .src0 (3 * (y * w + x))) (s.sourceByte .src0 (3 * (y * w + x) + 1))
          (s.sourceByte .src0 (3 * (y * w + x) + 2)) ∧
        Memory.read t.mem (s.snap.dst0.toNat + (y * w + x)) = q.y) ∧
      (∀ i j, i < h / 2 → j < w / 2 → ∃ q : Yuv,
        q = rgbToYuv s.plat (s.sourceByte .src0 (3 * (2 * i * w + 2 * j))) (s.sourceByte .src0 (3 * (2 * i * w + 2 * j) + 1))
          (s.sourceByte .src0 (3 * (2 * i * w + 2 * j) + 2)) ∧
        Memory.read t.mem (s.snap.dst0.toNat + (w * h + i * w + 2 * j)) = q.u ∧
        Memory.read t.mem (s.snap.dst0.toNat + (w * h + i * w + 2 * j + 1)) = q.v)

/-- R191, R190, R116: UNPACK completes on usable buffers with SRC_LEN = W·H·3/2, with the Y plane and the two quarter planes. The
clauses of `CompletesWriting` about `dirty` and `stale` are the model's byte-wise cache (DESIGN CHOICE, log 12), not a rule. -/
def Obligations.UnpackSeparatesThePlanes : Prop :=
  ∀ (s : State) (w h : Nat), Memory.wf s.mem = true → w = s.snap.w.toNat → h = s.snap.h.toNat → w % 2 = 0 → h % 2 = 0 →
    s.snap.srcLen.toNat = w * h * 3 / 2 →
    BuffersUsable s.plat [⟨s.snap.src0.toNat, 3 * (w * h) / 2⟩]
      [⟨s.snap.dst0.toNat, w * h⟩, ⟨s.snap.dst1.toNat, w * h / 4⟩, ⟨s.snap.dst2.toNat, w * h / 4⟩] →
    ∃ t, exec .unpack s = .next t ∧
      CompletesWriting s t [⟨s.snap.dst0.toNat, w * h⟩, ⟨s.snap.dst1.toNat, w * h / 4⟩, ⟨s.snap.dst2.toNat, w * h / 4⟩] ∧
      (∀ y x, y < h → x < w →
        Memory.read t.mem (s.snap.dst0.toNat + (y * w + x)) = s.sourceByte .src0 (y * w + x)) ∧
      (∀ i j, i < h / 2 → j < w / 2 →
        Memory.read t.mem (s.snap.dst1.toNat + (i * (w / 2) + j)) = s.sourceByte .src0 (w * h + i * w + 2 * j) ∧
        Memory.read t.mem (s.snap.dst2.toNat + (i * (w / 2) + j)) = s.sourceByte .src0 (w * h + i * w + 2 * j + 1))

/-- R192, R193, R116, R196: DECODE completes on usable buffers with SRC_LEN = W·H·3/2, whatever the buffer was made for, with the
closed form of R193 at every pixel. The clauses of `CompletesWriting` about `dirty` and `stale` are the
model's byte-wise cache (DESIGN CHOICE, log 12), not a rule. -/
def Obligations.DecodeWritesTheImage : Prop :=
  ∀ (s : State) (w h : Nat), Memory.wf s.mem = true → w = s.snap.w.toNat → h = s.snap.h.toNat → w % 2 = 0 → h % 2 = 0 →
    s.snap.srcLen.toNat = w * h * 3 / 2 →
    BuffersUsable s.plat [⟨s.snap.src0.toNat, 3 * (w * h) / 2⟩] [⟨s.snap.dst0.toNat, 3 * (w * h)⟩] →
    ∃ t, exec .decode s = .next t ∧ CompletesWriting s t [⟨s.snap.dst0.toNat, 3 * (w * h)⟩] ∧
      ∀ y x, y < h → x < w → ∃ q : Rgb,
        q = yuvToRgb s.plat (s.sourceByte .src0 (y * w + x)) (s.sourceByte .src0 (w * h + y / 2 * w + 2 * (x / 2)))
          (s.sourceByte .src0 (w * h + y / 2 * w + 2 * (x / 2) + 1)) ∧
        Memory.read t.mem (s.snap.dst0.toNat + 3 * (y * w + x)) = q.r ∧
        Memory.read t.mem (s.snap.dst0.toNat + 3 * (y * w + x) + 1) = q.g ∧
        Memory.read t.mem (s.snap.dst0.toNat + 3 * (y * w + x) + 2) = q.b

/-- R127, R235: a memory command with W = 0 or H = 0, the other even, completes with DONE and touches no memory, whatever its
addresses and the platform; but DECODE and UNPACK only when SRC_LEN = 0, and otherwise they end with SIZE_MISMATCH(0, SRC_LEN). -/
def Obligations.EmptyImageCompletesWithoutAccess : Prop :=
  ∀ (i : Instr) (s : State), Instr.isMemory i = true →
    ((s.snap.w.toNat = 0 ∧ s.snap.h.toNat % 2 = 0) ∨ (s.snap.h.toNat = 0 ∧ s.snap.w.toNat % 2 = 0)) →
    ((Instr.checksLength i = true → s.snap.srcLen = 0#32) → exec i s = .next { s with phase := .idle, done := true }) ∧
    (Instr.checksLength i = true → s.snap.srcLen ≠ 0#32 →
      exec i s = .next
        { s with phase := .idle, err := true, errCode := .sizeMismatch, errArg0 := 0#32, errArg1 := s.snap.srcLen })

/-- R68, R124: a command reads only its source regions. Two states, with ERR clear, that have the same snapshot, platform and
free-value number, the same flags, error record and PIX_OUT, and whose source regions read alike, come to outcomes that agree: both
fault, or both give the same flags, error record and PIX_OUT and, when no error ends the command, the same bytes in every destination
region. -/
def Obligations.OutcomeDependsOnlyOnTheSourceRegions : Prop :=
  ∀ (i : Instr) (s s' : State), Memory.wf s.mem = true → Memory.wf s'.mem = true →
    s'.snap = s.snap → s'.plat = s.plat → s'.draws = s.draws → s'.done = s.done → s.err = false → s'.err = false →
    s'.errCode = s.errCode → s'.errArg0 = s.errArg0 → s'.errArg1 = s.errArg1 → s'.pixOut = s.pixOut →
    (∀ r ∈ regions i s.snap, r.slot.isDst = false → ∀ k < r.len, s'.sourceByte r.slot k = s.sourceByte r.slot k) →
    (∀ f, exec i s = .fault f → exec i s' = .fault f) ∧
    (∀ t, exec i s = .next t → ∃ t', exec i s' = .next t' ∧
      t'.phase = t.phase ∧ t'.done = t.done ∧ t'.err = t.err ∧ t'.errCode = t.errCode ∧ t'.errArg0 = t.errArg0 ∧
      t'.errArg1 = t.errArg1 ∧ t'.pixOut = t.pixOut ∧
      (t.err = false → ∀ r ∈ regions i s.snap, r.slot.isDst = true → ∀ k < r.len,
        Memory.read t'.mem (r.base.toNat + k) = Memory.read t.mem (r.base.toNat + k)))

/-! ### The stages -/

/-- R174, R175: subsampling an upsampled quarter plane gives it back; and upsampling a subsampled W×H plane gives it back exactly
when it is constant within each 2×2 block. -/
def Obligations.UpsampleUndoesSubsampleOnBlockConstantPlanes : Prop :=
  (∀ q : Plane, subsample (upsample q) = q) ∧
  ∀ (p : Plane) (w h : Nat), w % 2 = 0 → h % 2 = 0 →
    ((∀ y x, y < h → x < w → upsample (subsample p) y x = p y x) ↔
      ∀ i j, i < h / 2 → j < w / 2 → ∀ y x, (y = 2 * i ∨ y = 2 * i + 1) → (x = 2 * j ∨ x = 2 * j + 1) →
        p y x = p (2 * i) (2 * j))

/-- R195: pack and unpack are exact inverses on a W×H image with W and H even. -/
def Obligations.PackAndUnpackAreInverse : Prop :=
  ∀ (w h : Nat), w % 2 = 0 → h % 2 = 0 →
    (∀ yp uq vq : Plane,
      (∀ y x, y < h → x < w → unpackY w (packByte w h yp uq vq) y x = yp y x) ∧
      (∀ i j, i < h / 2 → j < w / 2 → unpackU w h (packByte w h yp uq vq) i j = uq i j ∧
        unpackV w h (packByte w h yp uq vq) i j = vq i j)) ∧
    (∀ (n : Nat → Byte) (k : Nat), k < w * h * 3 / 2 → packByte w h (unpackY w n) (unpackU w h n) (unpackV w h n) k = n k)

/-- R184: when the host has written back what it wrote (R78), the sequence RGB2YUV into three full planes (at y, u, v), SUBSAMPLE
of the U plane (to uq) and of the V plane (to vq), and PACK, on usable scratch buffers apart from each other and from the image,
leaves in the NV12 destination the bytes that ENCODE leaves in it. -/
def Obligations.EncodeEqualsItsStages : Prop :=
  ∀ (s : State) (n : Snap) (y u v uq vq : Word) (s0 s1 s2 s3 s4 : State) (w h : Nat),
    Memory.wf s.mem = true → s.dirty = [] →
    w = n.w.toNat → h = n.h.toNat → w % 2 = 0 → h % 2 = 0 →
    BuffersUsable s.plat [⟨n.src0.toNat, 3 * (w * h)⟩] [⟨n.dst0.toNat, 3 * (w * h) / 2⟩] →
    BuffersUsable s.plat [⟨n.src0.toNat, 3 * (w * h)⟩] [⟨y.toNat, w * h⟩, ⟨u.toNat, w * h⟩, ⟨v.toNat, w * h⟩] →
    BuffersUsable s.plat [⟨u.toNat, w * h⟩, ⟨v.toNat, w * h⟩, ⟨y.toNat, w * h⟩] [⟨uq.toNat, w * h / 4⟩, ⟨vq.toNat, w * h / 4⟩] →
    BuffersUsable s.plat [⟨y.toNat, w * h⟩, ⟨uq.toNat, w * h / 4⟩, ⟨vq.toNat, w * h / 4⟩] [⟨n.dst0.toNat, 3 * (w * h) / 2⟩] →
    exec .encode { s with snap := n } = .next s0 →
    exec .rgb2yuv { s with snap := { n with dst0 := y, dst1 := u, dst2 := v } } = .next s1 →
    exec .subsample { s1 with snap := { n with src0 := u, dst0 := uq } } = .next s2 →
    exec .subsample { s2 with snap := { n with src0 := v, dst0 := vq } } = .next s3 →
    exec .pack { s3 with snap := { n with src0 := y, src1 := uq, src2 := vq } } = .next s4 →
    ∀ k, k < 3 * (w * h) / 2 →
      Memory.read s4.mem (n.dst0.toNat + k) = Memory.read s0.mem (n.dst0.toNat + k)

/-- R194: when the host has written back what it wrote (R78), the sequence UNPACK into a Y plane (at y) and two quarter planes (at
uq, vq), UPSAMPLE of each (to u and v), and YUV2RGB, on usable scratch buffers apart from each other and from the images, leaves
in the RGB24 destination the bytes that DECODE leaves in it. -/
def Obligations.DecodeEqualsItsStages : Prop :=
  ∀ (s : State) (n : Snap) (y u v uq vq : Word) (s0 s1 s2 s3 s4 : State) (w h : Nat),
    Memory.wf s.mem = true → s.dirty = [] →
    w = n.w.toNat → h = n.h.toNat → w % 2 = 0 → h % 2 = 0 → n.srcLen.toNat = w * h * 3 / 2 →
    BuffersUsable s.plat [⟨n.src0.toNat, 3 * (w * h) / 2⟩] [⟨n.dst0.toNat, 3 * (w * h)⟩] →
    BuffersUsable s.plat [⟨n.src0.toNat, 3 * (w * h) / 2⟩] [⟨y.toNat, w * h⟩, ⟨uq.toNat, w * h / 4⟩, ⟨vq.toNat, w * h / 4⟩] →
    BuffersUsable s.plat [⟨uq.toNat, w * h / 4⟩, ⟨vq.toNat, w * h / 4⟩, ⟨y.toNat, w * h⟩] [⟨u.toNat, w * h⟩, ⟨v.toNat, w * h⟩] →
    BuffersUsable s.plat [⟨y.toNat, w * h⟩, ⟨u.toNat, w * h⟩, ⟨v.toNat, w * h⟩] [⟨n.dst0.toNat, 3 * (w * h)⟩] →
    exec .decode { s with snap := n } = .next s0 →
    exec .unpack { s with snap := { n with dst0 := y, dst1 := uq, dst2 := vq } } = .next s1 →
    exec .upsample { s1 with snap := { n with src0 := uq, dst0 := u } } = .next s2 →
    exec .upsample { s2 with snap := { n with src0 := vq, dst0 := v } } = .next s3 →
    exec .yuv2rgb { s3 with snap := { n with src0 := y, src1 := u, src2 := v } } = .next s4 →
    ∀ k, k < 3 * (w * h) →
      Memory.read s4.mem (n.dst0.toNat + k) = Memory.read s0.mem (n.dst0.toNat + k)

/-! ### The colour transform -/

/-- R144, R146, R15: on a platform with ColorArith = EXACT and the document's literals, exact arithmetic, clamp and truncation. -/
def Obligations.ExactTransformsFollowTheFormulas : Prop :=
  ∀ p : Platform, p.colorArith = .exact → p.coeffs = Coeffs.document →
  (∀ r g b : Byte, ∃ (q : Yuv) (R G B : Int),
    q = rgbToYuv p r g b ∧ R = r.toNat ∧ G = g.toNat ∧ B = b.toNat ∧
    (q.y.toNat : Int) = min 255 ((299000 * R + 587000 * G + 114000 * B) / 1000000) ∧
    (q.u.toNat : Int) = max 0 (min 255 ((-168736 * R - 331264 * G + 500000 * B + 128000000) / 1000000)) ∧
    (q.v.toNat : Int) = max 0 (min 255 ((500000 * R - 418688 * G - 81312 * B + 128000000) / 1000000))) ∧
  (∀ y u v : Byte, ∃ (q : Rgb) (Y U V : Int),
    q = yuvToRgb p y u v ∧ Y = y.toNat ∧ U = u.toNat ∧ V = v.toNat ∧
    (q.r.toNat : Int) = max 0 (min 255 ((1000000 * Y + 1402000 * (V - 128)) / 1000000)) ∧
    (q.g.toNat : Int) = max 0 (min 255 ((1000000 * Y - 344136 * (U - 128) - 714136 * (V - 128)) / 1000000)) ∧
    (q.b.toNat : Int) = max 0 (min 255 ((1000000 * Y + 1772000 * (U - 128)) / 1000000)))

/-- R141: the binary32 values of the literals, as the table's exact fractions. -/
def Obligations.CoefficientsRoundAsTabulated : Prop :=
  f32OfMillionths 299000 = ⟨10032775 * 2 ^ 124⟩ ∧ f32OfMillionths 587000 = ⟨4924113 * 2 ^ 126⟩ ∧
  f32OfMillionths 114000 = ⟨15300821 * 2 ^ 122⟩ ∧ f32OfMillionths (-168736) = ⟨-11323681 * 2 ^ 123⟩ ∧
  f32OfMillionths (-331264) = ⟨-11115375 * 2 ^ 124⟩ ∧ f32OfMillionths 500000 = ⟨1 * 2 ^ 148⟩ ∧
  f32OfMillionths (-418688) = ⟨-7024419 * 2 ^ 125⟩ ∧ f32OfMillionths (-81312) = ⟨-1364189 * 2 ^ 125⟩ ∧
  f32OfMillionths 1402000 = ⟨2940207 * 2 ^ 128⟩ ∧ f32OfMillionths 344136 = ⟨1443411 * 2 ^ 127⟩ ∧
  f32OfMillionths 714136 = ⟨5990607 * 2 ^ 126⟩ ∧ f32OfMillionths 1772000 = ⟨14864613 * 2 ^ 126⟩ ∧
  f32OfInt 128 = ⟨128 * 2 ^ 149⟩

/-- R13: `f32` rounds to a nearest value of at most 24 significant bits and at least one unit of 2^-149. -/
def Obligations.RoundingIsToANearestBinary32Value : Prop :=
  ∀ (n : Int) (d : Nat), 0 < d →
    (∃ m : Int, ∃ e : Nat, m.natAbs ≤ 2 ^ 24 ∧ (f32Round n d).units = m * 2 ^ e) ∧
    ∀ m : Int, ∀ e : Nat, m.natAbs < 2 ^ 24 → |(f32Round n d).units * d - n| ≤ |m * 2 ^ e * d - n|

/-- R142, R143 (the forward half), R15: on a platform with ColorArith = F32_LTR and the document's literals, the forward transform is
evaluated left to right in binary32; y lies in [0, 255], and u and v in [0.5, 255.5], before quantisation, for every input; and the result
is truncated, at most 255. -/
def Obligations.ForwardTransformStaysInRange : Prop :=
  ∀ p : Platform, p.colorArith = .f32Ltr → p.coeffs = Coeffs.document → ∀ r g b : Byte, ∃ (q : Yuv) (y u v : F32),
    q = rgbToYuv p r g b ∧
    y = fadd (fadd (fmul (f32OfMillionths 299000) (f32OfByte r)) (fmul (f32OfMillionths 587000) (f32OfByte g)))
      (fmul (f32OfMillionths 114000) (f32OfByte b)) ∧
    u = fadd (fadd (fadd (fmul (f32OfMillionths (-168736)) (f32OfByte r)) (fmul (f32OfMillionths (-331264)) (f32OfByte g)))
      (fmul (f32OfMillionths 500000) (f32OfByte b))) (f32OfInt 128) ∧
    v = fadd (fadd (fadd (fmul (f32OfMillionths 500000) (f32OfByte r)) (fmul (f32OfMillionths (-418688)) (f32OfByte g)))
      (fmul (f32OfMillionths (-81312)) (f32OfByte b))) (f32OfInt 128) ∧
    0 ≤ y.units ∧ y.units ≤ 255 * 2 ^ 149 ∧
    2 ^ 148 ≤ u.units ∧ u.units ≤ 511 * 2 ^ 148 ∧
    2 ^ 148 ≤ v.units ∧ v.units ≤ 511 * 2 ^ 148 ∧
    (q.y.toNat : Int) = y.units / 2 ^ 149 ∧
    (q.u.toNat : Int) = min 255 (u.units / 2 ^ 149) ∧
    (q.v.toNat : Int) = min 255 (v.units / 2 ^ 149)

/-- R145, R143 (the inverse half), R15: on a platform with ColorArith = F32_LTR and the document's literals, the inverse transform is
evaluated left to right in binary32, where u - 128 and v - 128 are exact; every value before quantisation lies in
[-226.816, 15730082/2^15], whose end is the 480.044 of R143 to more decimals; and the result is clamped to [0, 255] and truncated. -/
def Obligations.InverseTransformIsClampedAndTruncated : Prop :=
  ∀ p : Platform, p.colorArith = .f32Ltr → p.coeffs = Coeffs.document → ∀ y u v : Byte, ∃ (q : Rgb) (du dv r g b : F32),
    q = yuvToRgb p y u v ∧
    du.units = ((u.toNat : Int) - 128) * 2 ^ 149 ∧ dv.units = ((v.toNat : Int) - 128) * 2 ^ 149 ∧
    r = fadd (f32OfByte y) (fmul (f32OfMillionths 1402000) dv) ∧
    g = fsub (fsub (f32OfByte y) (fmul (f32OfMillionths 344136) du)) (fmul (f32OfMillionths 714136) dv) ∧
    b = fadd (f32OfByte y) (fmul (f32OfMillionths 1772000) du) ∧
    (∀ x ∈ [r, g, b], -226816 * 2 ^ 149 ≤ 1000 * x.units ∧ x.units ≤ 15730082 * 2 ^ 134) ∧
    (q.r.toNat : Int) = max 0 (min 255 (r.units / 2 ^ 149)) ∧
    (q.g.toNat : Int) = max 0 (min 255 (g.units / 2 ^ 149)) ∧
    (q.b.toNat : Int) = max 0 (min 255 (b.units / 2 ^ 149))

/-- R153: (Y, 128, 128) gives (Y, Y, Y) for every Y, under either arithmetic. -/
def Obligations.NeutralChromaIsGrey : Prop :=
  ∀ (p : Platform) (y : Byte), p.coeffs = Coeffs.document → yuvToRgb p y 128#8 128#8 = { r := y, g := y, b := y }

/-! ### CSRs -/

/-- R31 to R36, R39, R40, R41: at any time, a 32-bit write of `v` to a parameter CSR answers a next state and changes that register
alone: every other CSR, the phase, the running command and its snapshot, memory and what the host has observed stay as they were.
A read that follows returns `v` without its reserved bits. -/
def Obligations.ParameterWriteChangesThatRegisterAlone : Prop :=
  ∀ (s : State) (c : Csr) (v : Word) (rest : List Event), Csr.isParameter c = true → s.resetPin = false →
    s.inputs = .csrWrite (s.plat.csrBase + csrOffset c) .w32 v :: rest →
    ∃ t, step s = .next t ∧ t.csrValue c = v &&& Csr.writable c ∧
      (∀ d, d ≠ c → d ≠ .pixOut → t.csrValue d = s.csrValue d) ∧ t.pixOut = s.pixOut ∧
      t.phase = s.phase ∧ t.snap = s.snap ∧ t.mem = s.mem ∧ t.dirty = s.dirty ∧ t.stale = s.stale ∧
      t.unobserved = s.unobserved ∧ t.resetPin = s.resetPin ∧ t.plat = s.plat ∧ t.inputs = rest ∧
      ∀ rest', rest = .csrRead (s.plat.csrBase + csrOffset c) .w32 :: rest' →
        ∃ u, step t = .next u ∧ u.responses = .readData (v &&& Csr.writable c) :: .writeOk :: s.responses

/-- R38, R21 to R24, R27 to R37, R39, R200: a write at a reserved offset, or to a read-only CSR, is answered and ignored. A read of a
reserved offset returns 0. A read of a defined CSR other than STATUS and PIX_OUT (for these `StatusShowsTheFlagsAndClearsThem` and
`PixOutReadsOldOrNew`) returns what it holds, zero-extended: CTRL its IRQ_EN, ERR_CODE the number of the code. No such read changes
anything. -/
def Obligations.ReservedAndReadOnlyCsrs : Prop :=
  ∀ (s : State) (off : Nat) (rest : List Event), off < 256 → off % 4 = 0 → s.resetPin = false →
    (off ∉ [0x08, 0x0C, 0x10, 0x20, 0x24, 0x28, 0x30, 0x34, 0x38, 0x40, 0x44, 0x48, 0x50] →
      ∀ v, s.inputs = .csrWrite (s.plat.csrBase + off) .w32 v :: rest →
      step s = .next { s with inputs := rest, draws := s.draws + 1, responses := .writeOk :: s.responses }) ∧
    (s.inputs = .csrRead (s.plat.csrBase + off) .w32 :: rest → off ≠ 0x0C → off ≠ 0x54 →
      ∃ v : Word,
        step s = .next { s with inputs := rest, draws := s.draws + 1, responses := .readData v :: s.responses } ∧
        ((off = 0x2C ∨ off = 0x3C ∨ off = 0x4C ∨ 0x58 ≤ off) → v = 0#32) ∧
        (off = 0x00 → v = 0x3231564E#32) ∧
        (off = 0x04 → v = 0x00000001#32) ∧
        (off = 0x08 → v = if s.irqEn then 1#32 else 0#32) ∧
        (off = 0x10 → v = s.cmd) ∧
        (off = 0x14 → v = match s.errCode with
          | .none => 0#32
          | .dimension => 1#32
          | .sizeMismatch => 2#32
          | .notFound => 3#32
          | .format => 4#32
          | .io => 5#32
          | .illegalCmd => 6#32
          | .range => 7#32
          | .overlap => 8#32) ∧
        (off = 0x18 → v = s.errArg0) ∧
        (off = 0x1C → v = s.errArg1) ∧
        (off = 0x20 → v.toNat = s.width.toNat) ∧
        (off = 0x24 → v.toNat = s.height.toNat) ∧
        (off = 0x28 → v = s.srcLen) ∧
        (off = 0x30 → v = s.src0) ∧
        (off = 0x34 → v = s.src1) ∧
        (off = 0x38 → v = s.src2) ∧
        (off = 0x40 → v = s.dst0) ∧
        (off = 0x44 → v = s.dst1) ∧
        (off = 0x48 → v = s.dst2) ∧
        (off = 0x50 → v.toNat = s.pixIn.toNat))

/-- R41, I12: a CSR access of another width, or at an offset that is not a multiple of 4, gets a bus error response, with data 0
for a read, and changes no state of the CORE. -/
def Obligations.OtherCsrAccessesGetABusError : Prop :=
  ∀ (s : State) (off : Nat) (w : Width) (v : Word) (rest : List Event), off < 256 → s.resetPin = false →
    (w ≠ .w32 ∨ off % 4 ≠ 0) →
    (s.inputs = .csrRead (s.plat.csrBase + off) w :: rest →
      step s = .next { s with inputs := rest, draws := s.draws + 1, responses := .readError 0#32 :: s.responses }) ∧
    (s.inputs = .csrWrite (s.plat.csrBase + off) w v :: rest →
      step s = .next { s with inputs := rest, draws := s.draws + 1, responses := .writeError :: s.responses })

/-- R25, R42, R26: a read of STATUS returns BUSY, DONE, ERR and DROP in bits 0 to 3 and zeros above, and changes nothing but that, when it
returns BUSY = 0, the host has observed every completion (log 10). A write of `v` to STATUS clears each of DONE, ERR and DROP whose bit in
`v` is 1, and changes nothing else. -/
def Obligations.StatusShowsTheFlagsAndClearsThem : Prop :=
  (∀ (s : State) (rest : List Event), s.resetPin = false → s.inputs = .csrRead (s.plat.csrBase + 0x0C) .w32 :: rest →
    ∃ v : Word,
      step s = .next
        { s with
          unobserved := if s.phase = .idle then [] else s.unobserved
          inputs := rest, draws := s.draws + 1, responses := .readData v :: s.responses } ∧
      (v.getLsbD 0 = true ↔ s.phase = .busy) ∧ v.getLsbD 1 = s.done ∧ v.getLsbD 2 = s.err ∧ v.getLsbD 3 = s.drop ∧
      ∀ k, 4 ≤ k → v.getLsbD k = false) ∧
  ∀ (s : State) (v : Word) (rest : List Event), s.resetPin = false →
    s.inputs = .csrWrite (s.plat.csrBase + 0x0C) .w32 v :: rest →
    step s = .next
      { s with
        done := if v.getLsbD 1 then false else s.done
        err := if v.getLsbD 2 then false else s.err
        drop := if v.getLsbD 3 then false else s.drop
        inputs := rest, draws := s.draws + 1, responses := .writeOk :: s.responses }

/-- R23, R24, R230, R231, R232: a CTRL write without SOFT_RESET sets IRQ_EN from bit 0 and changes nothing else, also while BUSY.
A CTRL write with SOFT_RESET puts every CSR at its reset value and the phase at IDLE, IRQ_EN = 0 among them. While IDLE memory is
unchanged; while BUSY only bytes of the running command's destination regions can change. The model's choices here: a reset ends
the duty of R240 (DEDUCED, log 10), the destination regions are those of `inFlight` (DEDUCED, log 9), and a soft reset during a
command whose completion would fault on memory with side effects faults the run (DESIGN CHOICE, log 13). -/
def Obligations.CtrlWriteSetsIrqEnOrResets : Prop :=
  ∀ (s : State) (v : Word) (rest : List Event), s.resetPin = false →
    s.inputs = .csrWrite (s.plat.csrBase + 0x08) .w32 v :: rest →
    (v.getLsbD 1 = false →
      step s = .next
        { s with irqEn := v.getLsbD 0, inputs := rest, draws := s.draws + 1, responses := .writeOk :: s.responses }) ∧
    (v.getLsbD 1 = true → (s.phase = .busy ∧ complete s = .fault .deviceRegion) → step s = .fault .deviceRegion) ∧
    (v.getLsbD 1 = true → ¬(s.phase = .busy ∧ complete s = .fault .deviceRegion) →
      ∃ t, step s = .next t ∧ (∀ c, t.csrValue c = (State.resetOn s.plat).csrValue c) ∧ t.phase = .idle ∧ t.unobserved = [] ∧
        t.irq = false ∧ t.plat = s.plat ∧ t.resetPin = false ∧ t.inputs = rest ∧ t.responses = .writeOk :: s.responses ∧
        (s.phase = .idle → t.mem = s.mem ∧ t.dirty = s.dirty ∧ t.stale = s.stale) ∧
        (∀ a, (∀ r ∈ inFlight s.snap, r.slot.isDst = true → Region.has r a = false) →
          Memory.read t.mem a = Memory.read s.mem a))

/-- R230, R231: asserting the reset input gives the same reset state, and while it is asserted no CSR access is answered. The model's
choices here: every event of the input, also a release of an input that is not asserted, resets and aborts (DESIGN CHOICE, log 18), the
destination regions of an abort are those of `inFlight` (DEDUCED, log 9), and a reset during a command whose completion would fault on
memory with side effects faults the run (DESIGN CHOICE, log 13). -/
def Obligations.HardwareResetGivesTheResetState : Prop :=
  ∀ (s : State) (level : Bool) (rest : List Event), s.inputs = .resetPin level :: rest →
    ((s.phase = .busy ∧ complete s = .fault .deviceRegion) → step s = .fault .deviceRegion) ∧
    (¬(s.phase = .busy ∧ complete s = .fault .deviceRegion) →
      ∃ t, step s = .next t ∧ (∀ c, t.csrValue c = (State.resetOn s.plat).csrValue c) ∧ t.phase = .idle ∧
        t.resetPin = level ∧ t.irq = false ∧ (s.phase = .idle → t.mem = s.mem) ∧
        (∀ a, (∀ r ∈ inFlight s.snap, r.slot.isDst = true → Region.has r a = false) →
          Memory.read t.mem a = Memory.read s.mem a) ∧
        (level = true → ∀ off w v rest', off < 256 →
          (t.inputs = .csrRead (t.plat.csrBase + off) w :: rest' ∨ t.inputs = .csrWrite (t.plat.csrBase + off) w v :: rest') →
          step t = .next { t with inputs := rest', draws := t.draws + 1, responses := .noAnswer :: t.responses }))

/-- R230 and the table of 10_state.md section 4: what every CSR reads after reset, on every platform. -/
def Obligations.CsrsReadTheirResetValues : Prop :=
  ∀ (p : Platform) (c : Csr),
    (State.resetOn p).csrValue c = (if c = .id then 0x3231564E#32 else if c = .version then 0x00000001#32 else 0#32) ∧
    (State.resetOn p).phase = .idle ∧ (State.resetOn p).irq = false

/-- R210: the interrupt output is IRQ_EN and (DONE or ERR), so DROP does not assert it; in a state of a run it is never asserted while
BUSY; and the host that looks at it is told its level, which changes nothing but that, seeing it asserted, the host has observed every
completion (log 10). -/
def Obligations.InterruptFollowsDoneAndErr : Prop :=
  ∀ s : State,
    (s.irq = true ↔ s.irqEn = true ∧ (s.done = true ∨ s.err = true)) ∧
    (s.Inv → s.phase = .busy → s.irq = false) ∧
    (∀ rest, s.inputs = .irqSample :: rest →
      step s = .next
        { s with
          unobserved := if s.irq then [] else s.unobserved
          inputs := rest, draws := s.draws + 1, responses := .irqLevel s.irq :: s.responses })

/-- R37: the value held in PIX_OUT is changed only by the completion of a pixel command, or by a reset. -/
def Obligations.OnlyPixelCommandsAndResetChangePixOut : Prop :=
  ∀ s t : State, step s = .next t → t.pixOut ≠ s.pixOut →
    (s.phase = .busy ∧ (s.snap.cmd = encode .pixRgb2yuv ∨ s.snap.cmd = encode .pixYuv2rgb) ∧ t.done = true) ∨
    (∃ level rest, s.inputs = .resetPin level :: rest) ∨
    (∃ v rest, s.inputs = .csrWrite (s.plat.csrBase + 0x08) .w32 v :: rest ∧ v.getLsbD 1 = true)

/-- R42: only a CMD write takes the phase from IDLE to BUSY, and only a completion or a reset takes it back. That a
completion is the next step when no event is left is the model's reading of fairness (R246; DEDUCED, log 20). -/
def Obligations.OnlyCmdWritesStartACommand : Prop :=
  ∀ s t : State, step s = .next t →
    (s.phase = .idle → t.phase = .busy →
      ∃ c rest, s.inputs = .csrWrite (s.plat.csrBase + 0x10) .w32 c :: rest ∧ t.cmd = c ∧ t.snap.cmd = c) ∧
    (s.phase = .busy → t.phase = .idle →
      s.inputs = [] ∨ (∃ rest, s.inputs = .engine :: rest) ∨ (∃ level rest, s.inputs = .resetPin level :: rest) ∨
      (∃ v rest, s.inputs = .csrWrite (s.plat.csrBase + 0x08) .w32 v :: rest ∧ v.getLsbD 1 = true))

/-! ### Memory and the agents outside -/

/-- R11, R20: a byte written by an agent outside is the byte that reads there afterwards; every other byte is unchanged, memory
keeps its canonical form, and nothing of the CORE changes. The model's choices here: the write always lands (DESIGN CHOICE, log
15), and when the DMA is not coherent the host's write marks its byte, and no other, as not written back and not stale (DESIGN
CHOICE, log 12). -/
def Obligations.OutsideWriteThenRead : Prop :=
  ∀ (s : State) (ag : Agent) (a : Word) (v : Byte) (rest : List Event), Memory.wf s.mem = true →
    s.inputs = .memWrite ag a v :: rest → s.guardedSource a.toNat = false → s.guardedDestination a.toNat = false →
    ∃ t, step s = .next t ∧ Memory.read t.mem a.toNat = v ∧ Memory.wf t.mem = true ∧
      (∀ b, b ≠ a.toNat → Memory.read t.mem b = Memory.read s.mem b) ∧
      ((ag = .other ∨ s.plat.dmaCoherent = true) → t.dirty = s.dirty ∧ t.stale = s.stale) ∧
      (ag = .host → s.plat.dmaCoherent = false → ∀ b,
        AddrSet.has t.dirty b = (b == a.toNat || AddrSet.has s.dirty b) ∧
        AddrSet.has t.stale b = (AddrSet.has s.stale b && b != a.toNat)) ∧
      t = { s with
        mem := t.mem, dirty := t.dirty, stale := t.stale
        inputs := rest, draws := s.draws + 1, responses := .memDone :: s.responses }

/-- R240, R76, I5: until the host has observed a command's completion, no agent outside may write a byte of its source regions, or
read or write a byte of its destination regions: the run faults at the access. Any other read answers a next state, and one by
another DMA master is told the byte that memory holds (for other writes `OutsideWriteThenRead`). The duty ends when the host reads
STATUS with BUSY = 0 (or sees the interrupt). The model's choices here: which regions a command has (DEDUCED, log 9), what counts
as observing (DEDUCED, log 10), that a permitted access always completes (DESIGN CHOICE, log 15), and that another DMA master
reads exactly what memory holds, whatever DMA_COHERENT is, also at a byte that the host has not written back (DESIGN CHOICE, log
12). -/
def Obligations.BufferDutyUntilCompletionIsObserved : Prop :=
  (∀ (s : State) (p : Pending) (r : Region) (ag : Agent) (a : Word) (v : Byte) (rest : List Event),
    p ∈ s.unobserved → r ∈ inFlight p.snap → Region.has r a.toNat = true →
    (r.slot.isDst = true → s.inputs = .memRead ag a :: rest → step s = .fault (.destinationRace a.toNat)) ∧
    (s.inputs = .memWrite ag a v :: rest →
      step s = .fault (.destinationRace a.toNat) ∨ step s = .fault (.sourceRace a.toNat))) ∧
  (∀ (s : State) (ag : Agent) (a : Word) (rest : List Event), s.inputs = .memRead ag a :: rest →
    (∀ p ∈ s.unobserved, ∀ r ∈ inFlight p.snap, r.slot.isDst = true → Region.has r a.toNat = false) →
    ∃ t, step s = .next t ∧ t.mem = s.mem ∧ (ag = .other → t.responses = .memData (Memory.read s.mem a.toNat) :: s.responses)) ∧
  (∀ (s : State) (rest : List Event), s.resetPin = false → s.phase = .idle →
    s.inputs = .csrRead (s.plat.csrBase + 0x0C) .w32 :: rest → ∃ t, step s = .next t ∧ t.unobserved = [] ∧ t.mem = s.mem) ∧
  (∀ (s : State) (rest : List Event), s.irq = true → s.inputs = .irqSample :: rest →
    ∃ t, step s = .next t ∧ t.unobserved = [] ∧ t.mem = s.mem)

/-- R68, R76, R78: with a coherent DMA, in a state of a run, an agent outside reads exactly what memory holds, and the DMA reads
exactly what memory holds at that offset of the region. Without, the DMA does so for every byte that the host has written back, and
the host for every byte that it has invalidated since the CORE wrote it. The byte-wise cache, of which other DMA masters are no part,
is the model's choice (DESIGN CHOICE, log 12). -/
def Obligations.AccessesSeeMemory : Prop :=
  ∀ s : State,
    (s.Inv → s.plat.dmaCoherent = true →
      (∀ ag a, s.outsideByte ag a = Memory.read s.mem a) ∧
      (∀ k, s.sourceByte .src0 k = Memory.read s.mem (s.snap.src0.toNat + k) ∧
        s.sourceByte .src1 k = Memory.read s.mem (s.snap.src1.toNat + k) ∧
        s.sourceByte .src2 k = Memory.read s.mem (s.snap.src2.toNat + k))) ∧
    (∀ r k, AddrSet.has s.dirty ((s.snap.addr r).toNat + k) = false →
      s.sourceByte r k = Memory.read s.mem ((s.snap.addr r).toNat + k)) ∧
    (∀ ag a, AddrSet.has s.stale a = false → s.outsideByte ag a = Memory.read s.mem a)

/-- R78: what the host does when the DMA is not coherent. A write-back leaves no byte of the range unwritten, an invalidation
leaves none stale, and the host then reads memory. The byte-wise cache is the model's choice (DESIGN CHOICE, log 12). -/
def Obligations.CacheMaintenanceRestoresTheView : Prop :=
  ∀ (s t : State) (r : AddrRange) (rest : List Event), step s = .next t →
    (s.inputs = .cacheWriteBack r :: rest → t.mem = s.mem ∧ t.stale = s.stale ∧
      (∀ a, AddrSet.has t.dirty a = (AddrSet.has s.dirty a && !AddrRange.has r a))) ∧
    (s.inputs = .cacheInvalidate r :: rest →
      (∀ a, AddrRange.has r a = true → AddrSet.has t.stale a = false ∧ AddrSet.has t.dirty a = false ∧
        t.outsideByte .host a = Memory.read t.mem a) ∧
      (∀ a, AddrSet.has s.dirty a = false → Memory.read t.mem a = Memory.read s.mem a))

/-- R37, R243, I6: a host read of PIX_OUT changes nothing and returns the value held, zero-extended; but until the host has observed the
completion of a pixel command it returns one of the value held, the values before such commands, and the running one's result. That the draw
lasts until observation, over every unobserved pixel command, is the model's reading (DEDUCED, log 11). -/
def Obligations.PixOutReadsOldOrNew : Prop :=
  ∀ (s : State) (rest : List Event), s.resetPin = false → s.inputs = .csrRead (s.plat.csrBase + 0x54) .w32 :: rest →
    ∃ v : Pix,
      step s = .next
        { s with inputs := rest, draws := s.draws + 1, responses := .readData (v.setWidth 32) :: s.responses } ∧
      ((∀ p ∈ s.unobserved, p.snap.isPixel = false) → (s.phase = .busy → s.snap.isPixel = false) → v = s.pixOut) ∧
      (v = s.pixOut ∨ (∃ p ∈ s.unobserved, p.snap.isPixel = true ∧ v = p.pixBefore) ∨
        (s.phase = .busy ∧ ∃ t, complete s = .next t ∧ v = t.pixOut))

/-! ### The machine as a whole -/

/-- The invariant holds after reset, on every platform (R230). -/
def Obligations.InvariantHoldsAfterReset : Prop := ∀ p : Platform, (State.resetOn p).Inv

/-- Every step keeps the invariant: memory in canonical form, DONE and ERR never both 1 (R25), no reserved error code (R203), an
empty error record while BUSY (R112), the reset state while reset is asserted (R230), and the rest of `State.Inv`. -/
def Obligations.StepKeepsTheInvariant : Prop := ∀ s t : State, s.Inv → step s = .next t → t.Inv

/-- R246, R122: from every BUSY state, whatever the agents outside do, the machine is IDLE after at most one step more than they
have left, unless the run stops before. The bound rests on the model's fairness: with no event left the engine completes (DEDUCED,
log 20). -/
def Obligations.AcceptedCommandsComplete : Prop :=
  ∀ s : State, s.phase = .busy →
    ∃ k, 0 < k ∧ k ≤ s.inputs.length + 1 ∧ ∀ t, Host.Core.run Sys2Proof.core k s = .next t → t.phase = .idle

/-- R8, R83: no step changes ColorArith, the coefficients, CSR_BASE, DMA_COHERENT or where memory has side effects; BusOK is fixed
for the duration of a command. R8 and R83 say this of BusOK during a command; that the other parameters never change at all is the
model's choice (DESIGN CHOICE, log 19). -/
def Obligations.ParametersOfThePlatformAreFixed : Prop :=
  ∀ s t : State, step s = .next t →
    t.plat.colorArith = s.plat.colorArith ∧ t.plat.coeffs = s.plat.coeffs ∧ t.plat.csrBase = s.plat.csrBase ∧
    t.plat.dmaCoherent = s.plat.dmaCoherent ∧ t.plat.devices = s.plat.devices ∧ (s.phase = .busy → t.plat = s.plat)

/-- R240, R65, R248: the only steps that stop a run. A run faults by memory with side effects only when a BUSY command that has a
byte of it in a region completes, or is aborted by a reset (log 13). It faults by a race only at a write, or a write-back, by
another agent of byte `a` of a source region, or at a read, a write or a write-back of byte `a` of a destination region, of a
command whose completion the host has not observed (logs 9, 10). A step is refused only for a CSR access outside the window (log
14). That a write-back of bytes not yet written back counts as a write of them in a guarded region, and that an invalidation of them
never stops a run, is the model's choice (DESIGN CHOICE, log 27), over its byte-wise cache (DESIGN CHOICE, log 12). That a completion
is the next step when no event is left is its reading of fairness (R246; DEDUCED, log 20). -/
def Obligations.OnlyTheNamedAccessesStopARun : Prop :=
  ∀ s : State,
    (∀ f, step s = .fault f →
      (f = .deviceRegion ∧ s.phase = .busy ∧
        (s.inputs = [] ∨ (∃ rest, s.inputs = .engine :: rest) ∨ (∃ level rest, s.inputs = .resetPin level :: rest) ∨
          ∃ v rest, s.inputs = .csrWrite (s.plat.csrBase + 0x08) .w32 v :: rest ∧ v.getLsbD 1 = true ∧ s.resetPin = false) ∧
        ∃ i, decode s.snap.cmd = .ok i ∧ ∃ r ∈ regions i s.snap, ∃ a, Region.has r a = true ∧ isDevice s.plat a = true) ∨
      (∃ a, f = .sourceRace a ∧
        (∃ p ∈ s.unobserved, ∃ r ∈ inFlight p.snap, r.slot.isDst = false ∧ Region.has r a = true) ∧
        ((∃ ag x v rest, s.inputs = .memWrite ag x v :: rest ∧ a = x.toNat) ∨
          ∃ c rest, s.inputs = .cacheWriteBack c :: rest ∧ AddrRange.has c a = true ∧ AddrSet.has s.dirty a = true)) ∨
      (∃ a, f = .destinationRace a ∧
        (∃ p ∈ s.unobserved, ∃ r ∈ inFlight p.snap, r.slot.isDst = true ∧ Region.has r a = true) ∧
        ((∃ ag x rest, s.inputs = .memRead ag x :: rest ∧ a = x.toNat) ∨
          (∃ ag x v rest, s.inputs = .memWrite ag x v :: rest ∧ a = x.toNat) ∨
          ∃ c rest, s.inputs = .cacheWriteBack c :: rest ∧ AddrRange.has c a = true ∧ AddrSet.has s.dirty a = true))) ∧
    (∀ r, step s = .refused r → ∃ addr, r = .outsideCsrWindow addr ∧
      ¬(s.plat.csrBase ≤ addr ∧ addr < s.plat.csrBase + 256) ∧
      ((∃ w rest, s.inputs = .csrRead addr w :: rest) ∨ ∃ w v rest, s.inputs = .csrWrite addr w v :: rest))
end

