-- ==== Sys2Proof/Laws/Memory.lean ====
section
/-! SUPPORT. The laws of memory and of sets of addresses: read after write, the frame of a write, and that every memory
operation keeps the canonical form. -/

namespace Sys2Proof.Machine

/-! ### Reading -/

@[simp] theorem Memory.read_nil (a : Nat) : Memory.read [] a = Memory.unlisted := rfl

@[simp] theorem Memory.read_cons (b : Nat) (v : Byte) (t : Memory) (a : Nat) :
    Memory.read ((b, v) :: t) a = if a = b then v else Memory.read t a := rfl

theorem Memory.read_consCell_ne {a b : Nat} (v : Byte) (m : Memory) (h : b ≠ a) :
    Memory.read (Memory.consCell a v m) b = Memory.read m b := by
  unfold Memory.consCell
  split <;> simp [h]

/-- A write leaves every other byte alone. -/
theorem Memory.read_write_ne (m : Memory) {a b : Nat} (v : Byte) (h : b ≠ a) :
    Memory.read (Memory.write m a v) b = Memory.read m b := by
  induction m with
  | nil => simp [Memory.write, Memory.read_consCell_ne v _ h]
  | cons c t ih =>
    obtain ⟨d, w⟩ := c
    unfold Memory.write
    split
    · exact Memory.read_consCell_ne v _ h
    · split
      · next hd => subst hd; rw [Memory.read_consCell_ne v _ h]; simp [h]
      · simp [ih]

/-- Below its first address a memory in canonical form lists nothing. -/
theorem Memory.read_below {lo : Nat} {m : Memory} (h : Memory.wfFrom lo m = true) {a : Nat} (ha : a < lo) :
    Memory.read m a = Memory.unlisted := by
  induction m generalizing lo with
  | nil => rfl
  | cons c t ih =>
    obtain ⟨d, w⟩ := c
    simp only [Memory.wfFrom, Bool.and_eq_true, decide_eq_true_eq] at h
    rw [Memory.read_cons, if_neg (by omega)]
    exact ih h.2 (by omega)

theorem Memory.read_consCell_self {a lo : Nat} (v : Byte) {m : Memory} (h : Memory.wfFrom lo m = true) (ha : a < lo) :
    Memory.read (Memory.consCell a v m) a = v := by
  unfold Memory.consCell
  split
  · next hv => rw [hv]; exact Memory.read_below h ha
  · simp

theorem Memory.read_write_self_from {lo : Nat} {m : Memory} (h : Memory.wfFrom lo m = true) (a : Nat) (v : Byte) :
    Memory.read (Memory.write m a v) a = v := by
  induction m generalizing lo with
  | nil => exact Memory.read_consCell_self v (lo := a + 1) rfl (by omega)
  | cons c t ih =>
    obtain ⟨d, w⟩ := c
    simp only [Memory.wfFrom, Bool.and_eq_true, decide_eq_true_eq] at h
    unfold Memory.write
    split
    · next hd =>
      refine Memory.read_consCell_self v (lo := d) ?_ hd
      simp [Memory.wfFrom, h]
    · split
      · next hd => exact Memory.read_consCell_self v h.2 (by omega)
      · next hd => rw [Memory.read_cons, if_neg hd]; exact ih h.2

/-- Read after write. -/
theorem Memory.read_write_self {m : Memory} (h : Memory.wf m = true) (a : Nat) (v : Byte) :
    Memory.read (Memory.write m a v) a = v := Memory.read_write_self_from h a v

/-! ### The canonical form -/

theorem Memory.wfFrom_mono {lo lo' : Nat} {m : Memory} (h : Memory.wfFrom lo m = true) (hl : lo' ≤ lo) :
    Memory.wfFrom lo' m = true := by
  cases m with
  | nil => rfl
  | cons c t =>
    obtain ⟨d, w⟩ := c
    simp only [Memory.wfFrom, Bool.and_eq_true, decide_eq_true_eq] at h ⊢
    exact ⟨⟨⟨by omega, h.1.1.2⟩, h.1.2⟩, h.2⟩

theorem Memory.wfFrom_consCell {lo a : Nat} (v : Byte) {m : Memory} (h : Memory.wfFrom (a + 1) m = true) (hl : lo ≤ a)
    (ha : a < memSize) : Memory.wfFrom lo (Memory.consCell a v m) = true := by
  unfold Memory.consCell
  split
  · exact Memory.wfFrom_mono h (by omega)
  · next hv => simp [Memory.wfFrom, h, hl, ha, hv]

theorem Memory.wfFrom_write {lo : Nat} {m : Memory} (h : Memory.wfFrom lo m = true) {a : Nat} (v : Byte) (hl : lo ≤ a)
    (ha : a < memSize) : Memory.wfFrom lo (Memory.write m a v) = true := by
  induction m generalizing lo with
  | nil => exact Memory.wfFrom_consCell v rfl hl ha
  | cons c t ih =>
    obtain ⟨d, w⟩ := c
    have h' := h
    simp only [Memory.wfFrom, Bool.and_eq_true, decide_eq_true_eq] at h'
    unfold Memory.write
    split
    · next hd =>
      refine Memory.wfFrom_consCell v ?_ hl ha
      simp only [Memory.wfFrom, Bool.and_eq_true, decide_eq_true_eq]
      exact ⟨⟨⟨by omega, h'.1.1.2⟩, h'.1.2⟩, h'.2⟩
    · split
      · next hd => subst hd; exact Memory.wfFrom_consCell v h'.2 hl ha
      · next h1 h2 =>
        simp only [Memory.wfFrom, Bool.and_eq_true, decide_eq_true_eq]
        exact ⟨⟨⟨h'.1.1.1, h'.1.1.2⟩, h'.1.2⟩, ih h'.2 (by omega)⟩

/-- A write keeps the canonical form. -/
theorem Memory.wf_write {m : Memory} (h : Memory.wf m = true) {a : Nat} (v : Byte) (ha : a < memSize) :
    Memory.wf (Memory.write m a v) = true := Memory.wfFrom_write h v (Nat.zero_le a) ha

theorem Memory.wf_writeN {m : Memory} (h : Memory.wf m = true) (base : Nat) (f : Nat → Byte) (n : Nat)
    (hb : base + n ≤ memSize) : Memory.wf (Memory.writeN m base f n) = true := by
  induction n with
  | zero => exact h
  | succ k ih => exact Memory.wf_write (ih (by omega)) _ (by omega)

/-- Every byte outside the range of a multi-byte write reads as before. -/
theorem Memory.read_writeN_out (m : Memory) (base : Nat) (f : Nat → Byte) (n : Nat) {a : Nat}
    (ha : a < base ∨ base + n ≤ a) : Memory.read (Memory.writeN m base f n) a = Memory.read m a := by
  induction n with
  | zero => rfl
  | succ k ih =>
    rw [Memory.writeN, Memory.read_write_ne _ _ (by omega)]
    exact ih (by omega)

/-- Every byte of the range of a multi-byte write reads as written. -/
theorem Memory.read_writeN_in {m : Memory} (h : Memory.wf m = true) (base : Nat) (f : Nat → Byte) (n : Nat)
    (hb : base + n ≤ memSize) {k : Nat} (hk : k < n) : Memory.read (Memory.writeN m base f n) (base + k) = f k := by
  induction n with
  | zero => omega
  | succ j ih =>
    rw [Memory.writeN]
    by_cases hkj : k = j
    · subst hkj; exact Memory.read_write_self (Memory.wf_writeN h base f _ (by omega)) _ _
    · rw [Memory.read_write_ne _ _ (by omega)]; exact ih (by omega) (by omega)

theorem Memory.wf_forget {m : Memory} (h : Memory.wf m = true) (draw : Nat) {as : List Nat}
    (ha : ∀ a ∈ as, a < memSize) : Memory.wf (Memory.forget m draw as) = true := by
  induction as with
  | nil => exact h
  | cons a rest ih =>
    exact Memory.wf_write (ih (fun b hb => ha b (List.mem_cons_of_mem _ hb))) _ (ha a (List.mem_cons_self ..))

theorem Memory.read_forget_out (m : Memory) (draw : Nat) (as : List Nat) {b : Nat} (hb : b ∉ as) :
    Memory.read (Memory.forget m draw as) b = Memory.read m b := by
  induction as with
  | nil => rfl
  | cons a rest ih =>
    rw [List.mem_cons, not_or] at hb
    rw [Memory.forget, Memory.read_write_ne _ _ hb.1, ih hb.2]

/-! ### Sets of addresses -/

@[simp] theorem AddrSet.has_nil (a : Nat) : AddrSet.has [] a = false := rfl

@[simp] theorem AddrSet.has_cons (b : Nat) (t : AddrSet) (a : Nat) :
    AddrSet.has (b :: t) a = (a == b || AddrSet.has t a) := rfl

theorem AddrSet.has_iff_mem (s : AddrSet) (a : Nat) : AddrSet.has s a = true ↔ a ∈ s := by
  induction s with
  | nil => simp
  | cons b t ih => simp [ih]

theorem AddrSet.has_insert (s : AddrSet) (a b : Nat) : AddrSet.has (AddrSet.insert s a) b = (b == a || AddrSet.has s b) := by
  induction s with
  | nil => simp [AddrSet.insert]
  | cons c t ih =>
    unfold AddrSet.insert
    split
    · simp
    · split
      · next h1 h2 => subst h2; simp only [AddrSet.has_cons]; cases b == a <;> rfl
      · simp only [AddrSet.has_cons, ih]; cases b == a <;> cases b == c <;> rfl

theorem AddrSet.has_insertN (s : AddrSet) (base n a : Nat) :
    AddrSet.has (AddrSet.insertN s base n) a = (AddrSet.has s a || (decide (base ≤ a) && decide (a < base + n))) := by
  rw [Bool.eq_iff_iff]
  simp only [Bool.or_eq_true, Bool.and_eq_true, decide_eq_true_eq]
  induction n with
  | zero =>
    rw [AddrSet.insertN]
    constructor
    · exact .inl
    · rintro (h | h)
      · exact h
      · omega
  | succ k ih =>
    rw [AddrSet.insertN, AddrSet.has_insert, Bool.or_eq_true, ih, beq_iff_eq]
    constructor
    · rintro (h | h | h)
      · right; omega
      · left; exact h
      · right; omega
    · rintro (h | h)
      · right; left; exact h
      · by_cases hk : a = base + k
        · left; exact hk
        · right; right; omega

theorem AddrSet.has_dropRange (s : AddrSet) (base n a : Nat) :
    AddrSet.has (AddrSet.dropRange s base n) a = (AddrSet.has s a && !(decide (base ≤ a) && decide (a < base + n))) := by
  rw [Bool.eq_iff_iff]
  simp only [AddrSet.has_iff_mem, AddrSet.dropRange, List.mem_filter, Bool.or_eq_true, Bool.and_eq_true,
    decide_eq_true_eq, Bool.not_eq_true', Bool.and_eq_false_iff, decide_eq_false_iff_not]
  constructor
  · rintro ⟨h, h'⟩; exact ⟨h, by omega⟩
  · rintro ⟨h, h'⟩; exact ⟨h, by omega⟩

theorem AddrSet.wfFrom_mono {lo lo' : Nat} {s : AddrSet} (h : AddrSet.wfFrom lo s = true) (hl : lo' ≤ lo) :
    AddrSet.wfFrom lo' s = true := by
  cases s with
  | nil => rfl
  | cons a t =>
    simp only [AddrSet.wfFrom, Bool.and_eq_true, decide_eq_true_eq] at h ⊢
    exact ⟨⟨by omega, h.1.2⟩, h.2⟩

theorem AddrSet.wfFrom_insert {lo : Nat} {s : AddrSet} (h : AddrSet.wfFrom lo s = true) {a : Nat} (hl : lo ≤ a)
    (ha : a < memSize) : AddrSet.wfFrom lo (AddrSet.insert s a) = true := by
  induction s generalizing lo with
  | nil => simp [AddrSet.insert, AddrSet.wfFrom, hl, ha]
  | cons b t ih =>
    have h' := h
    simp only [AddrSet.wfFrom, Bool.and_eq_true, decide_eq_true_eq] at h'
    unfold AddrSet.insert
    split
    · simp only [AddrSet.wfFrom, Bool.and_eq_true, decide_eq_true_eq]
      exact ⟨⟨hl, ha⟩, ⟨by omega, h'.1.2⟩, h'.2⟩
    · split
      · exact h
      · simp only [AddrSet.wfFrom, Bool.and_eq_true, decide_eq_true_eq]
        exact ⟨h'.1, ih h'.2 (by omega)⟩

theorem AddrSet.wf_insert {s : AddrSet} (h : AddrSet.wf s = true) {a : Nat} (ha : a < memSize) :
    AddrSet.wf (AddrSet.insert s a) = true := AddrSet.wfFrom_insert h (Nat.zero_le a) ha

theorem AddrSet.wf_insertN {s : AddrSet} (h : AddrSet.wf s = true) (base n : Nat) (hb : base + n ≤ memSize) :
    AddrSet.wf (AddrSet.insertN s base n) = true := by
  induction n with
  | zero => exact h
  | succ k ih => exact AddrSet.wf_insert (ih (by omega)) (by omega)

theorem AddrSet.wfFrom_filter {lo : Nat} {s : AddrSet} (h : AddrSet.wfFrom lo s = true) (q : Nat → Bool) :
    AddrSet.wfFrom lo (s.filter q) = true := by
  induction s generalizing lo with
  | nil => rfl
  | cons a t ih =>
    have h' := h
    simp only [AddrSet.wfFrom, Bool.and_eq_true, decide_eq_true_eq] at h'
    rw [List.filter_cons]
    split
    · simp only [AddrSet.wfFrom, Bool.and_eq_true, decide_eq_true_eq]
      exact ⟨h'.1, ih h'.2⟩
    · exact AddrSet.wfFrom_mono (ih h'.2) (by omega)

theorem AddrSet.wf_dropRange {s : AddrSet} (h : AddrSet.wf s = true) (base n : Nat) :
    AddrSet.wf (AddrSet.dropRange s base n) = true := AddrSet.wfFrom_filter h _

theorem AddrSet.lt_of_wf {lo : Nat} {s : AddrSet} (h : AddrSet.wfFrom lo s = true) {a : Nat} (ha : a ∈ s) : a < memSize := by
  induction s generalizing lo with
  | nil => cases ha
  | cons b t ih =>
    simp only [AddrSet.wfFrom, Bool.and_eq_true, decide_eq_true_eq] at h
    cases ha with
    | head => exact h.1.2
    | tail _ ht => exact ih h.2 ht

end Sys2Proof.Machine
end

