-- ==== Sys2Proof/Laws/State.lean ====
section
/-! SUPPORT. One lemma per field per update of State, true by rfl, so that no proof unfolds a record update. -/

namespace Sys2Proof.Machine

variable (s : State)

@[simp] theorem State.raise_irqEn (c : ErrCode) (x y : Word) : (s.raise c x y).irqEn = s.irqEn := rfl
@[simp] theorem State.raise_phase (c : ErrCode) (x y : Word) : (s.raise c x y).phase = .idle := rfl
@[simp] theorem State.raise_done (c : ErrCode) (x y : Word) : (s.raise c x y).done = s.done := rfl
@[simp] theorem State.raise_err (c : ErrCode) (x y : Word) : (s.raise c x y).err = true := rfl
@[simp] theorem State.raise_drop (c : ErrCode) (x y : Word) : (s.raise c x y).drop = s.drop := rfl
@[simp] theorem State.raise_cmd (c : ErrCode) (x y : Word) : (s.raise c x y).cmd = s.cmd := rfl
@[simp] theorem State.raise_errCode (c : ErrCode) (x y : Word) : (s.raise c x y).errCode = c := rfl
@[simp] theorem State.raise_errArg0 (c : ErrCode) (x y : Word) : (s.raise c x y).errArg0 = x := rfl
@[simp] theorem State.raise_errArg1 (c : ErrCode) (x y : Word) : (s.raise c x y).errArg1 = y := rfl
@[simp] theorem State.raise_width (c : ErrCode) (x y : Word) : (s.raise c x y).width = s.width := rfl
@[simp] theorem State.raise_height (c : ErrCode) (x y : Word) : (s.raise c x y).height = s.height := rfl
@[simp] theorem State.raise_srcLen (c : ErrCode) (x y : Word) : (s.raise c x y).srcLen = s.srcLen := rfl
@[simp] theorem State.raise_src0 (c : ErrCode) (x y : Word) : (s.raise c x y).src0 = s.src0 := rfl
@[simp] theorem State.raise_src1 (c : ErrCode) (x y : Word) : (s.raise c x y).src1 = s.src1 := rfl
@[simp] theorem State.raise_src2 (c : ErrCode) (x y : Word) : (s.raise c x y).src2 = s.src2 := rfl
@[simp] theorem State.raise_dst0 (c : ErrCode) (x y : Word) : (s.raise c x y).dst0 = s.dst0 := rfl
@[simp] theorem State.raise_dst1 (c : ErrCode) (x y : Word) : (s.raise c x y).dst1 = s.dst1 := rfl
@[simp] theorem State.raise_dst2 (c : ErrCode) (x y : Word) : (s.raise c x y).dst2 = s.dst2 := rfl
@[simp] theorem State.raise_pixIn (c : ErrCode) (x y : Word) : (s.raise c x y).pixIn = s.pixIn := rfl
@[simp] theorem State.raise_pixOut (c : ErrCode) (x y : Word) : (s.raise c x y).pixOut = s.pixOut := rfl
@[simp] theorem State.raise_snap (c : ErrCode) (x y : Word) : (s.raise c x y).snap = s.snap := rfl
@[simp] theorem State.raise_resetPin (c : ErrCode) (x y : Word) : (s.raise c x y).resetPin = s.resetPin := rfl
@[simp] theorem State.raise_mem (c : ErrCode) (x y : Word) : (s.raise c x y).mem = s.mem := rfl
@[simp] theorem State.raise_dirty (c : ErrCode) (x y : Word) : (s.raise c x y).dirty = s.dirty := rfl
@[simp] theorem State.raise_stale (c : ErrCode) (x y : Word) : (s.raise c x y).stale = s.stale := rfl
@[simp] theorem State.raise_unobserved (c : ErrCode) (x y : Word) : (s.raise c x y).unobserved = s.unobserved := rfl
@[simp] theorem State.raise_inputs (c : ErrCode) (x y : Word) : (s.raise c x y).inputs = s.inputs := rfl
@[simp] theorem State.raise_responses (c : ErrCode) (x y : Word) : (s.raise c x y).responses = s.responses := rfl
@[simp] theorem State.raise_draws (c : ErrCode) (x y : Word) : (s.raise c x y).draws = s.draws := rfl
@[simp] theorem State.raise_plat (c : ErrCode) (x y : Word) : (s.raise c x y).plat = s.plat := rfl

@[simp] theorem State.finishOk_irqEn : (s.finishOk).irqEn = s.irqEn := rfl
@[simp] theorem State.finishOk_phase : (s.finishOk).phase = .idle := rfl
@[simp] theorem State.finishOk_done : (s.finishOk).done = true := rfl
@[simp] theorem State.finishOk_err : (s.finishOk).err = s.err := rfl
@[simp] theorem State.finishOk_drop : (s.finishOk).drop = s.drop := rfl
@[simp] theorem State.finishOk_cmd : (s.finishOk).cmd = s.cmd := rfl
@[simp] theorem State.finishOk_errCode : (s.finishOk).errCode = s.errCode := rfl
@[simp] theorem State.finishOk_errArg0 : (s.finishOk).errArg0 = s.errArg0 := rfl
@[simp] theorem State.finishOk_errArg1 : (s.finishOk).errArg1 = s.errArg1 := rfl
@[simp] theorem State.finishOk_width : (s.finishOk).width = s.width := rfl
@[simp] theorem State.finishOk_height : (s.finishOk).height = s.height := rfl
@[simp] theorem State.finishOk_srcLen : (s.finishOk).srcLen = s.srcLen := rfl
@[simp] theorem State.finishOk_src0 : (s.finishOk).src0 = s.src0 := rfl
@[simp] theorem State.finishOk_src1 : (s.finishOk).src1 = s.src1 := rfl
@[simp] theorem State.finishOk_src2 : (s.finishOk).src2 = s.src2 := rfl
@[simp] theorem State.finishOk_dst0 : (s.finishOk).dst0 = s.dst0 := rfl
@[simp] theorem State.finishOk_dst1 : (s.finishOk).dst1 = s.dst1 := rfl
@[simp] theorem State.finishOk_dst2 : (s.finishOk).dst2 = s.dst2 := rfl
@[simp] theorem State.finishOk_pixIn : (s.finishOk).pixIn = s.pixIn := rfl
@[simp] theorem State.finishOk_pixOut : (s.finishOk).pixOut = s.pixOut := rfl
@[simp] theorem State.finishOk_snap : (s.finishOk).snap = s.snap := rfl
@[simp] theorem State.finishOk_resetPin : (s.finishOk).resetPin = s.resetPin := rfl
@[simp] theorem State.finishOk_mem : (s.finishOk).mem = s.mem := rfl
@[simp] theorem State.finishOk_dirty : (s.finishOk).dirty = s.dirty := rfl
@[simp] theorem State.finishOk_stale : (s.finishOk).stale = s.stale := rfl
@[simp] theorem State.finishOk_unobserved : (s.finishOk).unobserved = s.unobserved := rfl
@[simp] theorem State.finishOk_inputs : (s.finishOk).inputs = s.inputs := rfl
@[simp] theorem State.finishOk_responses : (s.finishOk).responses = s.responses := rfl
@[simp] theorem State.finishOk_draws : (s.finishOk).draws = s.draws := rfl
@[simp] theorem State.finishOk_plat : (s.finishOk).plat = s.plat := rfl

@[simp] theorem State.accept_irqEn (c : Word) : (s.accept c).irqEn = s.irqEn := rfl
@[simp] theorem State.accept_phase (c : Word) : (s.accept c).phase = .busy := rfl
@[simp] theorem State.accept_done (c : Word) : (s.accept c).done = false := rfl
@[simp] theorem State.accept_err (c : Word) : (s.accept c).err = false := rfl
@[simp] theorem State.accept_drop (c : Word) : (s.accept c).drop = s.drop := rfl
@[simp] theorem State.accept_cmd (c : Word) : (s.accept c).cmd = c := rfl
@[simp] theorem State.accept_errCode (c : Word) : (s.accept c).errCode = .none := rfl
@[simp] theorem State.accept_errArg0 (c : Word) : (s.accept c).errArg0 = 0#32 := rfl
@[simp] theorem State.accept_errArg1 (c : Word) : (s.accept c).errArg1 = 0#32 := rfl
@[simp] theorem State.accept_width (c : Word) : (s.accept c).width = s.width := rfl
@[simp] theorem State.accept_height (c : Word) : (s.accept c).height = s.height := rfl
@[simp] theorem State.accept_srcLen (c : Word) : (s.accept c).srcLen = s.srcLen := rfl
@[simp] theorem State.accept_src0 (c : Word) : (s.accept c).src0 = s.src0 := rfl
@[simp] theorem State.accept_src1 (c : Word) : (s.accept c).src1 = s.src1 := rfl
@[simp] theorem State.accept_src2 (c : Word) : (s.accept c).src2 = s.src2 := rfl
@[simp] theorem State.accept_dst0 (c : Word) : (s.accept c).dst0 = s.dst0 := rfl
@[simp] theorem State.accept_dst1 (c : Word) : (s.accept c).dst1 = s.dst1 := rfl
@[simp] theorem State.accept_dst2 (c : Word) : (s.accept c).dst2 = s.dst2 := rfl
@[simp] theorem State.accept_pixIn (c : Word) : (s.accept c).pixIn = s.pixIn := rfl
@[simp] theorem State.accept_pixOut (c : Word) : (s.accept c).pixOut = s.pixOut := rfl
@[simp] theorem State.accept_snap (c : Word) : (s.accept c).snap = s.latch c := rfl
@[simp] theorem State.accept_resetPin (c : Word) : (s.accept c).resetPin = s.resetPin := rfl
@[simp] theorem State.accept_mem (c : Word) : (s.accept c).mem = s.mem := rfl
@[simp] theorem State.accept_dirty (c : Word) : (s.accept c).dirty = s.dirty := rfl
@[simp] theorem State.accept_stale (c : Word) : (s.accept c).stale = s.stale := rfl
@[simp] theorem State.accept_unobserved (c : Word) : (s.accept c).unobserved = ⟨s.latch c, s.pixOut⟩ :: s.unobserved := rfl
@[simp] theorem State.accept_inputs (c : Word) : (s.accept c).inputs = s.inputs := rfl
@[simp] theorem State.accept_responses (c : Word) : (s.accept c).responses = s.responses := rfl
@[simp] theorem State.accept_draws (c : Word) : (s.accept c).draws = s.draws := rfl
@[simp] theorem State.accept_plat (c : Word) : (s.accept c).plat = s.plat := rfl

@[simp] theorem State.tick_irqEn : (s.tick).irqEn = s.irqEn := rfl
@[simp] theorem State.tick_phase : (s.tick).phase = s.phase := rfl
@[simp] theorem State.tick_done : (s.tick).done = s.done := rfl
@[simp] theorem State.tick_err : (s.tick).err = s.err := rfl
@[simp] theorem State.tick_drop : (s.tick).drop = s.drop := rfl
@[simp] theorem State.tick_cmd : (s.tick).cmd = s.cmd := rfl
@[simp] theorem State.tick_errCode : (s.tick).errCode = s.errCode := rfl
@[simp] theorem State.tick_errArg0 : (s.tick).errArg0 = s.errArg0 := rfl
@[simp] theorem State.tick_errArg1 : (s.tick).errArg1 = s.errArg1 := rfl
@[simp] theorem State.tick_width : (s.tick).width = s.width := rfl
@[simp] theorem State.tick_height : (s.tick).height = s.height := rfl
@[simp] theorem State.tick_srcLen : (s.tick).srcLen = s.srcLen := rfl
@[simp] theorem State.tick_src0 : (s.tick).src0 = s.src0 := rfl
@[simp] theorem State.tick_src1 : (s.tick).src1 = s.src1 := rfl
@[simp] theorem State.tick_src2 : (s.tick).src2 = s.src2 := rfl
@[simp] theorem State.tick_dst0 : (s.tick).dst0 = s.dst0 := rfl
@[simp] theorem State.tick_dst1 : (s.tick).dst1 = s.dst1 := rfl
@[simp] theorem State.tick_dst2 : (s.tick).dst2 = s.dst2 := rfl
@[simp] theorem State.tick_pixIn : (s.tick).pixIn = s.pixIn := rfl
@[simp] theorem State.tick_pixOut : (s.tick).pixOut = s.pixOut := rfl
@[simp] theorem State.tick_snap : (s.tick).snap = s.snap := rfl
@[simp] theorem State.tick_resetPin : (s.tick).resetPin = s.resetPin := rfl
@[simp] theorem State.tick_mem : (s.tick).mem = s.mem := rfl
@[simp] theorem State.tick_dirty : (s.tick).dirty = s.dirty := rfl
@[simp] theorem State.tick_stale : (s.tick).stale = s.stale := rfl
@[simp] theorem State.tick_unobserved : (s.tick).unobserved = s.unobserved := rfl
@[simp] theorem State.tick_inputs : (s.tick).inputs = s.inputs.tail := rfl
@[simp] theorem State.tick_responses : (s.tick).responses = s.responses := rfl
@[simp] theorem State.tick_draws : (s.tick).draws = s.draws + 1 := rfl
@[simp] theorem State.tick_plat : (s.tick).plat = s.plat := rfl

@[simp] theorem State.respond_irqEn (r : Response) : (s.respond r).irqEn = s.irqEn := rfl
@[simp] theorem State.respond_phase (r : Response) : (s.respond r).phase = s.phase := rfl
@[simp] theorem State.respond_done (r : Response) : (s.respond r).done = s.done := rfl
@[simp] theorem State.respond_err (r : Response) : (s.respond r).err = s.err := rfl
@[simp] theorem State.respond_drop (r : Response) : (s.respond r).drop = s.drop := rfl
@[simp] theorem State.respond_cmd (r : Response) : (s.respond r).cmd = s.cmd := rfl
@[simp] theorem State.respond_errCode (r : Response) : (s.respond r).errCode = s.errCode := rfl
@[simp] theorem State.respond_errArg0 (r : Response) : (s.respond r).errArg0 = s.errArg0 := rfl
@[simp] theorem State.respond_errArg1 (r : Response) : (s.respond r).errArg1 = s.errArg1 := rfl
@[simp] theorem State.respond_width (r : Response) : (s.respond r).width = s.width := rfl
@[simp] theorem State.respond_height (r : Response) : (s.respond r).height = s.height := rfl
@[simp] theorem State.respond_srcLen (r : Response) : (s.respond r).srcLen = s.srcLen := rfl
@[simp] theorem State.respond_src0 (r : Response) : (s.respond r).src0 = s.src0 := rfl
@[simp] theorem State.respond_src1 (r : Response) : (s.respond r).src1 = s.src1 := rfl
@[simp] theorem State.respond_src2 (r : Response) : (s.respond r).src2 = s.src2 := rfl
@[simp] theorem State.respond_dst0 (r : Response) : (s.respond r).dst0 = s.dst0 := rfl
@[simp] theorem State.respond_dst1 (r : Response) : (s.respond r).dst1 = s.dst1 := rfl
@[simp] theorem State.respond_dst2 (r : Response) : (s.respond r).dst2 = s.dst2 := rfl
@[simp] theorem State.respond_pixIn (r : Response) : (s.respond r).pixIn = s.pixIn := rfl
@[simp] theorem State.respond_pixOut (r : Response) : (s.respond r).pixOut = s.pixOut := rfl
@[simp] theorem State.respond_snap (r : Response) : (s.respond r).snap = s.snap := rfl
@[simp] theorem State.respond_resetPin (r : Response) : (s.respond r).resetPin = s.resetPin := rfl
@[simp] theorem State.respond_mem (r : Response) : (s.respond r).mem = s.mem := rfl
@[simp] theorem State.respond_dirty (r : Response) : (s.respond r).dirty = s.dirty := rfl
@[simp] theorem State.respond_stale (r : Response) : (s.respond r).stale = s.stale := rfl
@[simp] theorem State.respond_unobserved (r : Response) : (s.respond r).unobserved = s.unobserved := rfl
@[simp] theorem State.respond_inputs (r : Response) : (s.respond r).inputs = s.inputs := rfl
@[simp] theorem State.respond_responses (r : Response) : (s.respond r).responses = r :: s.responses := rfl
@[simp] theorem State.respond_draws (r : Response) : (s.respond r).draws = s.draws := rfl
@[simp] theorem State.respond_plat (r : Response) : (s.respond r).plat = s.plat := rfl

@[simp] theorem State.clearStatus_irqEn (v : Word) : (s.clearStatus v).irqEn = s.irqEn := rfl
@[simp] theorem State.clearStatus_phase (v : Word) : (s.clearStatus v).phase = s.phase := rfl
@[simp] theorem State.clearStatus_done (v : Word) : (s.clearStatus v).done = (s.done && !v.getLsbD 1) := rfl
@[simp] theorem State.clearStatus_err (v : Word) : (s.clearStatus v).err = (s.err && !v.getLsbD 2) := rfl
@[simp] theorem State.clearStatus_drop (v : Word) : (s.clearStatus v).drop = (s.drop && !v.getLsbD 3) := rfl
@[simp] theorem State.clearStatus_cmd (v : Word) : (s.clearStatus v).cmd = s.cmd := rfl
@[simp] theorem State.clearStatus_errCode (v : Word) : (s.clearStatus v).errCode = s.errCode := rfl
@[simp] theorem State.clearStatus_errArg0 (v : Word) : (s.clearStatus v).errArg0 = s.errArg0 := rfl
@[simp] theorem State.clearStatus_errArg1 (v : Word) : (s.clearStatus v).errArg1 = s.errArg1 := rfl
@[simp] theorem State.clearStatus_width (v : Word) : (s.clearStatus v).width = s.width := rfl
@[simp] theorem State.clearStatus_height (v : Word) : (s.clearStatus v).height = s.height := rfl
@[simp] theorem State.clearStatus_srcLen (v : Word) : (s.clearStatus v).srcLen = s.srcLen := rfl
@[simp] theorem State.clearStatus_src0 (v : Word) : (s.clearStatus v).src0 = s.src0 := rfl
@[simp] theorem State.clearStatus_src1 (v : Word) : (s.clearStatus v).src1 = s.src1 := rfl
@[simp] theorem State.clearStatus_src2 (v : Word) : (s.clearStatus v).src2 = s.src2 := rfl
@[simp] theorem State.clearStatus_dst0 (v : Word) : (s.clearStatus v).dst0 = s.dst0 := rfl
@[simp] theorem State.clearStatus_dst1 (v : Word) : (s.clearStatus v).dst1 = s.dst1 := rfl
@[simp] theorem State.clearStatus_dst2 (v : Word) : (s.clearStatus v).dst2 = s.dst2 := rfl
@[simp] theorem State.clearStatus_pixIn (v : Word) : (s.clearStatus v).pixIn = s.pixIn := rfl
@[simp] theorem State.clearStatus_pixOut (v : Word) : (s.clearStatus v).pixOut = s.pixOut := rfl
@[simp] theorem State.clearStatus_snap (v : Word) : (s.clearStatus v).snap = s.snap := rfl
@[simp] theorem State.clearStatus_resetPin (v : Word) : (s.clearStatus v).resetPin = s.resetPin := rfl
@[simp] theorem State.clearStatus_mem (v : Word) : (s.clearStatus v).mem = s.mem := rfl
@[simp] theorem State.clearStatus_dirty (v : Word) : (s.clearStatus v).dirty = s.dirty := rfl
@[simp] theorem State.clearStatus_stale (v : Word) : (s.clearStatus v).stale = s.stale := rfl
@[simp] theorem State.clearStatus_unobserved (v : Word) : (s.clearStatus v).unobserved = s.unobserved := rfl
@[simp] theorem State.clearStatus_inputs (v : Word) : (s.clearStatus v).inputs = s.inputs := rfl
@[simp] theorem State.clearStatus_responses (v : Word) : (s.clearStatus v).responses = s.responses := rfl
@[simp] theorem State.clearStatus_draws (v : Word) : (s.clearStatus v).draws = s.draws := rfl
@[simp] theorem State.clearStatus_plat (v : Word) : (s.clearStatus v).plat = s.plat := rfl

@[simp] theorem State.coreReset_irqEn : (s.coreReset).irqEn = false := rfl
@[simp] theorem State.coreReset_phase : (s.coreReset).phase = .idle := rfl
@[simp] theorem State.coreReset_done : (s.coreReset).done = false := rfl
@[simp] theorem State.coreReset_err : (s.coreReset).err = false := rfl
@[simp] theorem State.coreReset_drop : (s.coreReset).drop = false := rfl
@[simp] theorem State.coreReset_cmd : (s.coreReset).cmd = 0#32 := rfl
@[simp] theorem State.coreReset_errCode : (s.coreReset).errCode = .none := rfl
@[simp] theorem State.coreReset_errArg0 : (s.coreReset).errArg0 = 0#32 := rfl
@[simp] theorem State.coreReset_errArg1 : (s.coreReset).errArg1 = 0#32 := rfl
@[simp] theorem State.coreReset_width : (s.coreReset).width = 0#15 := rfl
@[simp] theorem State.coreReset_height : (s.coreReset).height = 0#15 := rfl
@[simp] theorem State.coreReset_srcLen : (s.coreReset).srcLen = 0#32 := rfl
@[simp] theorem State.coreReset_src0 : (s.coreReset).src0 = 0#32 := rfl
@[simp] theorem State.coreReset_src1 : (s.coreReset).src1 = 0#32 := rfl
@[simp] theorem State.coreReset_src2 : (s.coreReset).src2 = 0#32 := rfl
@[simp] theorem State.coreReset_dst0 : (s.coreReset).dst0 = 0#32 := rfl
@[simp] theorem State.coreReset_dst1 : (s.coreReset).dst1 = 0#32 := rfl
@[simp] theorem State.coreReset_dst2 : (s.coreReset).dst2 = 0#32 := rfl
@[simp] theorem State.coreReset_pixIn : (s.coreReset).pixIn = 0#24 := rfl
@[simp] theorem State.coreReset_pixOut : (s.coreReset).pixOut = 0#24 := rfl
@[simp] theorem State.coreReset_snap : (s.coreReset).snap = Snap.zero := rfl
@[simp] theorem State.coreReset_resetPin : (s.coreReset).resetPin = s.resetPin := rfl
@[simp] theorem State.coreReset_mem : (s.coreReset).mem = s.mem := rfl
@[simp] theorem State.coreReset_dirty : (s.coreReset).dirty = s.dirty := rfl
@[simp] theorem State.coreReset_stale : (s.coreReset).stale = s.stale := rfl
@[simp] theorem State.coreReset_unobserved : (s.coreReset).unobserved = [] := rfl
@[simp] theorem State.coreReset_inputs : (s.coreReset).inputs = s.inputs := rfl
@[simp] theorem State.coreReset_responses : (s.coreReset).responses = s.responses := rfl
@[simp] theorem State.coreReset_draws : (s.coreReset).draws = s.draws := rfl
@[simp] theorem State.coreReset_plat : (s.coreReset).plat = s.plat := rfl

@[simp] theorem State.dmaWrite_irqEn (r : Region) (f : Nat → Byte) : (s.dmaWrite r f).irqEn = s.irqEn := rfl
@[simp] theorem State.dmaWrite_phase (r : Region) (f : Nat → Byte) : (s.dmaWrite r f).phase = s.phase := rfl
@[simp] theorem State.dmaWrite_done (r : Region) (f : Nat → Byte) : (s.dmaWrite r f).done = s.done := rfl
@[simp] theorem State.dmaWrite_err (r : Region) (f : Nat → Byte) : (s.dmaWrite r f).err = s.err := rfl
@[simp] theorem State.dmaWrite_drop (r : Region) (f : Nat → Byte) : (s.dmaWrite r f).drop = s.drop := rfl
@[simp] theorem State.dmaWrite_cmd (r : Region) (f : Nat → Byte) : (s.dmaWrite r f).cmd = s.cmd := rfl
@[simp] theorem State.dmaWrite_errCode (r : Region) (f : Nat → Byte) : (s.dmaWrite r f).errCode = s.errCode := rfl
@[simp] theorem State.dmaWrite_errArg0 (r : Region) (f : Nat → Byte) : (s.dmaWrite r f).errArg0 = s.errArg0 := rfl
@[simp] theorem State.dmaWrite_errArg1 (r : Region) (f : Nat → Byte) : (s.dmaWrite r f).errArg1 = s.errArg1 := rfl
@[simp] theorem State.dmaWrite_width (r : Region) (f : Nat → Byte) : (s.dmaWrite r f).width = s.width := rfl
@[simp] theorem State.dmaWrite_height (r : Region) (f : Nat → Byte) : (s.dmaWrite r f).height = s.height := rfl
@[simp] theorem State.dmaWrite_srcLen (r : Region) (f : Nat → Byte) : (s.dmaWrite r f).srcLen = s.srcLen := rfl
@[simp] theorem State.dmaWrite_src0 (r : Region) (f : Nat → Byte) : (s.dmaWrite r f).src0 = s.src0 := rfl
@[simp] theorem State.dmaWrite_src1 (r : Region) (f : Nat → Byte) : (s.dmaWrite r f).src1 = s.src1 := rfl
@[simp] theorem State.dmaWrite_src2 (r : Region) (f : Nat → Byte) : (s.dmaWrite r f).src2 = s.src2 := rfl
@[simp] theorem State.dmaWrite_dst0 (r : Region) (f : Nat → Byte) : (s.dmaWrite r f).dst0 = s.dst0 := rfl
@[simp] theorem State.dmaWrite_dst1 (r : Region) (f : Nat → Byte) : (s.dmaWrite r f).dst1 = s.dst1 := rfl
@[simp] theorem State.dmaWrite_dst2 (r : Region) (f : Nat → Byte) : (s.dmaWrite r f).dst2 = s.dst2 := rfl
@[simp] theorem State.dmaWrite_pixIn (r : Region) (f : Nat → Byte) : (s.dmaWrite r f).pixIn = s.pixIn := rfl
@[simp] theorem State.dmaWrite_pixOut (r : Region) (f : Nat → Byte) : (s.dmaWrite r f).pixOut = s.pixOut := rfl
@[simp] theorem State.dmaWrite_snap (r : Region) (f : Nat → Byte) : (s.dmaWrite r f).snap = s.snap := rfl
@[simp] theorem State.dmaWrite_resetPin (r : Region) (f : Nat → Byte) : (s.dmaWrite r f).resetPin = s.resetPin := rfl
@[simp] theorem State.dmaWrite_mem (r : Region) (f : Nat → Byte) : (s.dmaWrite r f).mem = Memory.writeN s.mem r.base.toNat f r.clipped := rfl
@[simp] theorem State.dmaWrite_dirty (r : Region) (f : Nat → Byte) : (s.dmaWrite r f).dirty = (if s.plat.dmaCoherent then s.dirty else AddrSet.dropRange s.dirty r.base.toNat r.clipped) := rfl
@[simp] theorem State.dmaWrite_stale (r : Region) (f : Nat → Byte) : (s.dmaWrite r f).stale = (if s.plat.dmaCoherent then s.stale else AddrSet.insertN s.stale r.base.toNat r.clipped) := rfl
@[simp] theorem State.dmaWrite_unobserved (r : Region) (f : Nat → Byte) : (s.dmaWrite r f).unobserved = s.unobserved := rfl
@[simp] theorem State.dmaWrite_inputs (r : Region) (f : Nat → Byte) : (s.dmaWrite r f).inputs = s.inputs := rfl
@[simp] theorem State.dmaWrite_responses (r : Region) (f : Nat → Byte) : (s.dmaWrite r f).responses = s.responses := rfl
@[simp] theorem State.dmaWrite_draws (r : Region) (f : Nat → Byte) : (s.dmaWrite r f).draws = s.draws := rfl
@[simp] theorem State.dmaWrite_plat (r : Region) (f : Nat → Byte) : (s.dmaWrite r f).plat = s.plat := rfl

@[simp] theorem State.loadCommand_irqEn (c : Word) : (s.loadCommand c).irqEn = s.irqEn := rfl
@[simp] theorem State.loadCommand_phase (c : Word) : (s.loadCommand c).phase = .busy := rfl
@[simp] theorem State.loadCommand_done (c : Word) : (s.loadCommand c).done = false := rfl
@[simp] theorem State.loadCommand_err (c : Word) : (s.loadCommand c).err = false := rfl
@[simp] theorem State.loadCommand_drop (c : Word) : (s.loadCommand c).drop = s.drop := rfl
@[simp] theorem State.loadCommand_cmd (c : Word) : (s.loadCommand c).cmd = c := rfl
@[simp] theorem State.loadCommand_errCode (c : Word) : (s.loadCommand c).errCode = .none := rfl
@[simp] theorem State.loadCommand_errArg0 (c : Word) : (s.loadCommand c).errArg0 = 0#32 := rfl
@[simp] theorem State.loadCommand_errArg1 (c : Word) : (s.loadCommand c).errArg1 = 0#32 := rfl
@[simp] theorem State.loadCommand_width (c : Word) : (s.loadCommand c).width = s.width := rfl
@[simp] theorem State.loadCommand_height (c : Word) : (s.loadCommand c).height = s.height := rfl
@[simp] theorem State.loadCommand_srcLen (c : Word) : (s.loadCommand c).srcLen = s.srcLen := rfl
@[simp] theorem State.loadCommand_src0 (c : Word) : (s.loadCommand c).src0 = s.src0 := rfl
@[simp] theorem State.loadCommand_src1 (c : Word) : (s.loadCommand c).src1 = s.src1 := rfl
@[simp] theorem State.loadCommand_src2 (c : Word) : (s.loadCommand c).src2 = s.src2 := rfl
@[simp] theorem State.loadCommand_dst0 (c : Word) : (s.loadCommand c).dst0 = s.dst0 := rfl
@[simp] theorem State.loadCommand_dst1 (c : Word) : (s.loadCommand c).dst1 = s.dst1 := rfl
@[simp] theorem State.loadCommand_dst2 (c : Word) : (s.loadCommand c).dst2 = s.dst2 := rfl
@[simp] theorem State.loadCommand_pixIn (c : Word) : (s.loadCommand c).pixIn = s.pixIn := rfl
@[simp] theorem State.loadCommand_pixOut (c : Word) : (s.loadCommand c).pixOut = s.pixOut := rfl
@[simp] theorem State.loadCommand_snap (c : Word) : (s.loadCommand c).snap = s.latch c := rfl
@[simp] theorem State.loadCommand_resetPin (c : Word) : (s.loadCommand c).resetPin = false := rfl
@[simp] theorem State.loadCommand_mem (c : Word) : (s.loadCommand c).mem = s.mem := rfl
@[simp] theorem State.loadCommand_dirty (c : Word) : (s.loadCommand c).dirty = s.dirty := rfl
@[simp] theorem State.loadCommand_stale (c : Word) : (s.loadCommand c).stale = s.stale := rfl
@[simp] theorem State.loadCommand_unobserved (c : Word) : (s.loadCommand c).unobserved = ⟨s.latch c, s.pixOut⟩ :: s.unobserved := rfl
@[simp] theorem State.loadCommand_inputs (c : Word) : (s.loadCommand c).inputs = .engine :: s.inputs := rfl
@[simp] theorem State.loadCommand_responses (c : Word) : (s.loadCommand c).responses = s.responses := rfl
@[simp] theorem State.loadCommand_draws (c : Word) : (s.loadCommand c).draws = s.draws := rfl
@[simp] theorem State.loadCommand_plat (c : Word) : (s.loadCommand c).plat = s.plat := rfl

@[simp] theorem State.dmaWriteAll_irqEn (rs : List Region) (f : Slot → Nat → Byte) : (s.dmaWriteAll rs f).irqEn = s.irqEn := by
  induction rs generalizing s with
  | nil => rfl
  | cons r rest ih => rw [State.dmaWriteAll, ih]; split <;> rfl
@[simp] theorem State.dmaWriteAll_phase (rs : List Region) (f : Slot → Nat → Byte) : (s.dmaWriteAll rs f).phase = s.phase := by
  induction rs generalizing s with
  | nil => rfl
  | cons r rest ih => rw [State.dmaWriteAll, ih]; split <;> rfl
@[simp] theorem State.dmaWriteAll_done (rs : List Region) (f : Slot → Nat → Byte) : (s.dmaWriteAll rs f).done = s.done := by
  induction rs generalizing s with
  | nil => rfl
  | cons r rest ih => rw [State.dmaWriteAll, ih]; split <;> rfl
@[simp] theorem State.dmaWriteAll_err (rs : List Region) (f : Slot → Nat → Byte) : (s.dmaWriteAll rs f).err = s.err := by
  induction rs generalizing s with
  | nil => rfl
  | cons r rest ih => rw [State.dmaWriteAll, ih]; split <;> rfl
@[simp] theorem State.dmaWriteAll_drop (rs : List Region) (f : Slot → Nat → Byte) : (s.dmaWriteAll rs f).drop = s.drop := by
  induction rs generalizing s with
  | nil => rfl
  | cons r rest ih => rw [State.dmaWriteAll, ih]; split <;> rfl
@[simp] theorem State.dmaWriteAll_cmd (rs : List Region) (f : Slot → Nat → Byte) : (s.dmaWriteAll rs f).cmd = s.cmd := by
  induction rs generalizing s with
  | nil => rfl
  | cons r rest ih => rw [State.dmaWriteAll, ih]; split <;> rfl
@[simp] theorem State.dmaWriteAll_errCode (rs : List Region) (f : Slot → Nat → Byte) : (s.dmaWriteAll rs f).errCode = s.errCode := by
  induction rs generalizing s with
  | nil => rfl
  | cons r rest ih => rw [State.dmaWriteAll, ih]; split <;> rfl
@[simp] theorem State.dmaWriteAll_errArg0 (rs : List Region) (f : Slot → Nat → Byte) : (s.dmaWriteAll rs f).errArg0 = s.errArg0 := by
  induction rs generalizing s with
  | nil => rfl
  | cons r rest ih => rw [State.dmaWriteAll, ih]; split <;> rfl
@[simp] theorem State.dmaWriteAll_errArg1 (rs : List Region) (f : Slot → Nat → Byte) : (s.dmaWriteAll rs f).errArg1 = s.errArg1 := by
  induction rs generalizing s with
  | nil => rfl
  | cons r rest ih => rw [State.dmaWriteAll, ih]; split <;> rfl
@[simp] theorem State.dmaWriteAll_width (rs : List Region) (f : Slot → Nat → Byte) : (s.dmaWriteAll rs f).width = s.width := by
  induction rs generalizing s with
  | nil => rfl
  | cons r rest ih => rw [State.dmaWriteAll, ih]; split <;> rfl
@[simp] theorem State.dmaWriteAll_height (rs : List Region) (f : Slot → Nat → Byte) : (s.dmaWriteAll rs f).height = s.height := by
  induction rs generalizing s with
  | nil => rfl
  | cons r rest ih => rw [State.dmaWriteAll, ih]; split <;> rfl
@[simp] theorem State.dmaWriteAll_srcLen (rs : List Region) (f : Slot → Nat → Byte) : (s.dmaWriteAll rs f).srcLen = s.srcLen := by
  induction rs generalizing s with
  | nil => rfl
  | cons r rest ih => rw [State.dmaWriteAll, ih]; split <;> rfl
@[simp] theorem State.dmaWriteAll_src0 (rs : List Region) (f : Slot → Nat → Byte) : (s.dmaWriteAll rs f).src0 = s.src0 := by
  induction rs generalizing s with
  | nil => rfl
  | cons r rest ih => rw [State.dmaWriteAll, ih]; split <;> rfl
@[simp] theorem State.dmaWriteAll_src1 (rs : List Region) (f : Slot → Nat → Byte) : (s.dmaWriteAll rs f).src1 = s.src1 := by
  induction rs generalizing s with
  | nil => rfl
  | cons r rest ih => rw [State.dmaWriteAll, ih]; split <;> rfl
@[simp] theorem State.dmaWriteAll_src2 (rs : List Region) (f : Slot → Nat → Byte) : (s.dmaWriteAll rs f).src2 = s.src2 := by
  induction rs generalizing s with
  | nil => rfl
  | cons r rest ih => rw [State.dmaWriteAll, ih]; split <;> rfl
@[simp] theorem State.dmaWriteAll_dst0 (rs : List Region) (f : Slot → Nat → Byte) : (s.dmaWriteAll rs f).dst0 = s.dst0 := by
  induction rs generalizing s with
  | nil => rfl
  | cons r rest ih => rw [State.dmaWriteAll, ih]; split <;> rfl
@[simp] theorem State.dmaWriteAll_dst1 (rs : List Region) (f : Slot → Nat → Byte) : (s.dmaWriteAll rs f).dst1 = s.dst1 := by
  induction rs generalizing s with
  | nil => rfl
  | cons r rest ih => rw [State.dmaWriteAll, ih]; split <;> rfl
@[simp] theorem State.dmaWriteAll_dst2 (rs : List Region) (f : Slot → Nat → Byte) : (s.dmaWriteAll rs f).dst2 = s.dst2 := by
  induction rs generalizing s with
  | nil => rfl
  | cons r rest ih => rw [State.dmaWriteAll, ih]; split <;> rfl
@[simp] theorem State.dmaWriteAll_pixIn (rs : List Region) (f : Slot → Nat → Byte) : (s.dmaWriteAll rs f).pixIn = s.pixIn := by
  induction rs generalizing s with
  | nil => rfl
  | cons r rest ih => rw [State.dmaWriteAll, ih]; split <;> rfl
@[simp] theorem State.dmaWriteAll_pixOut (rs : List Region) (f : Slot → Nat → Byte) : (s.dmaWriteAll rs f).pixOut = s.pixOut := by
  induction rs generalizing s with
  | nil => rfl
  | cons r rest ih => rw [State.dmaWriteAll, ih]; split <;> rfl
@[simp] theorem State.dmaWriteAll_snap (rs : List Region) (f : Slot → Nat → Byte) : (s.dmaWriteAll rs f).snap = s.snap := by
  induction rs generalizing s with
  | nil => rfl
  | cons r rest ih => rw [State.dmaWriteAll, ih]; split <;> rfl
@[simp] theorem State.dmaWriteAll_resetPin (rs : List Region) (f : Slot → Nat → Byte) : (s.dmaWriteAll rs f).resetPin = s.resetPin := by
  induction rs generalizing s with
  | nil => rfl
  | cons r rest ih => rw [State.dmaWriteAll, ih]; split <;> rfl
@[simp] theorem State.dmaWriteAll_unobserved (rs : List Region) (f : Slot → Nat → Byte) : (s.dmaWriteAll rs f).unobserved = s.unobserved := by
  induction rs generalizing s with
  | nil => rfl
  | cons r rest ih => rw [State.dmaWriteAll, ih]; split <;> rfl
@[simp] theorem State.dmaWriteAll_inputs (rs : List Region) (f : Slot → Nat → Byte) : (s.dmaWriteAll rs f).inputs = s.inputs := by
  induction rs generalizing s with
  | nil => rfl
  | cons r rest ih => rw [State.dmaWriteAll, ih]; split <;> rfl
@[simp] theorem State.dmaWriteAll_responses (rs : List Region) (f : Slot → Nat → Byte) : (s.dmaWriteAll rs f).responses = s.responses := by
  induction rs generalizing s with
  | nil => rfl
  | cons r rest ih => rw [State.dmaWriteAll, ih]; split <;> rfl
@[simp] theorem State.dmaWriteAll_draws (rs : List Region) (f : Slot → Nat → Byte) : (s.dmaWriteAll rs f).draws = s.draws := by
  induction rs generalizing s with
  | nil => rfl
  | cons r rest ih => rw [State.dmaWriteAll, ih]; split <;> rfl
@[simp] theorem State.dmaWriteAll_plat (rs : List Region) (f : Slot → Nat → Byte) : (s.dmaWriteAll rs f).plat = s.plat := by
  induction rs generalizing s with
  | nil => rfl
  | cons r rest ih => rw [State.dmaWriteAll, ih]; split <;> rfl

@[simp] theorem State.scramble_irqEn (rs : List Region) : (s.scramble rs).irqEn = s.irqEn :=
  State.dmaWriteAll_irqEn s rs _
@[simp] theorem State.scramble_phase (rs : List Region) : (s.scramble rs).phase = s.phase :=
  State.dmaWriteAll_phase s rs _
@[simp] theorem State.scramble_done (rs : List Region) : (s.scramble rs).done = s.done :=
  State.dmaWriteAll_done s rs _
@[simp] theorem State.scramble_err (rs : List Region) : (s.scramble rs).err = s.err :=
  State.dmaWriteAll_err s rs _
@[simp] theorem State.scramble_drop (rs : List Region) : (s.scramble rs).drop = s.drop :=
  State.dmaWriteAll_drop s rs _
@[simp] theorem State.scramble_cmd (rs : List Region) : (s.scramble rs).cmd = s.cmd :=
  State.dmaWriteAll_cmd s rs _
@[simp] theorem State.scramble_errCode (rs : List Region) : (s.scramble rs).errCode = s.errCode :=
  State.dmaWriteAll_errCode s rs _
@[simp] theorem State.scramble_errArg0 (rs : List Region) : (s.scramble rs).errArg0 = s.errArg0 :=
  State.dmaWriteAll_errArg0 s rs _
@[simp] theorem State.scramble_errArg1 (rs : List Region) : (s.scramble rs).errArg1 = s.errArg1 :=
  State.dmaWriteAll_errArg1 s rs _
@[simp] theorem State.scramble_width (rs : List Region) : (s.scramble rs).width = s.width :=
  State.dmaWriteAll_width s rs _
@[simp] theorem State.scramble_height (rs : List Region) : (s.scramble rs).height = s.height :=
  State.dmaWriteAll_height s rs _
@[simp] theorem State.scramble_srcLen (rs : List Region) : (s.scramble rs).srcLen = s.srcLen :=
  State.dmaWriteAll_srcLen s rs _
@[simp] theorem State.scramble_src0 (rs : List Region) : (s.scramble rs).src0 = s.src0 :=
  State.dmaWriteAll_src0 s rs _
@[simp] theorem State.scramble_src1 (rs : List Region) : (s.scramble rs).src1 = s.src1 :=
  State.dmaWriteAll_src1 s rs _
@[simp] theorem State.scramble_src2 (rs : List Region) : (s.scramble rs).src2 = s.src2 :=
  State.dmaWriteAll_src2 s rs _
@[simp] theorem State.scramble_dst0 (rs : List Region) : (s.scramble rs).dst0 = s.dst0 :=
  State.dmaWriteAll_dst0 s rs _
@[simp] theorem State.scramble_dst1 (rs : List Region) : (s.scramble rs).dst1 = s.dst1 :=
  State.dmaWriteAll_dst1 s rs _
@[simp] theorem State.scramble_dst2 (rs : List Region) : (s.scramble rs).dst2 = s.dst2 :=
  State.dmaWriteAll_dst2 s rs _
@[simp] theorem State.scramble_pixIn (rs : List Region) : (s.scramble rs).pixIn = s.pixIn :=
  State.dmaWriteAll_pixIn s rs _
@[simp] theorem State.scramble_pixOut (rs : List Region) : (s.scramble rs).pixOut = s.pixOut :=
  State.dmaWriteAll_pixOut s rs _
@[simp] theorem State.scramble_snap (rs : List Region) : (s.scramble rs).snap = s.snap :=
  State.dmaWriteAll_snap s rs _
@[simp] theorem State.scramble_resetPin (rs : List Region) : (s.scramble rs).resetPin = s.resetPin :=
  State.dmaWriteAll_resetPin s rs _
@[simp] theorem State.scramble_unobserved (rs : List Region) : (s.scramble rs).unobserved = s.unobserved :=
  State.dmaWriteAll_unobserved s rs _
@[simp] theorem State.scramble_inputs (rs : List Region) : (s.scramble rs).inputs = s.inputs :=
  State.dmaWriteAll_inputs s rs _
@[simp] theorem State.scramble_responses (rs : List Region) : (s.scramble rs).responses = s.responses :=
  State.dmaWriteAll_responses s rs _
@[simp] theorem State.scramble_draws (rs : List Region) : (s.scramble rs).draws = s.draws :=
  State.dmaWriteAll_draws s rs _
@[simp] theorem State.scramble_plat (rs : List Region) : (s.scramble rs).plat = s.plat :=
  State.dmaWriteAll_plat s rs _

@[simp] theorem State.abort_irqEn : s.abort.irqEn = s.irqEn := by
  unfold State.abort; split <;> simp
@[simp] theorem State.abort_phase : s.abort.phase = s.phase := by
  unfold State.abort; split <;> simp
@[simp] theorem State.abort_done : s.abort.done = s.done := by
  unfold State.abort; split <;> simp
@[simp] theorem State.abort_err : s.abort.err = s.err := by
  unfold State.abort; split <;> simp
@[simp] theorem State.abort_drop : s.abort.drop = s.drop := by
  unfold State.abort; split <;> simp
@[simp] theorem State.abort_cmd : s.abort.cmd = s.cmd := by
  unfold State.abort; split <;> simp
@[simp] theorem State.abort_errCode : s.abort.errCode = s.errCode := by
  unfold State.abort; split <;> simp
@[simp] theorem State.abort_errArg0 : s.abort.errArg0 = s.errArg0 := by
  unfold State.abort; split <;> simp
@[simp] theorem State.abort_errArg1 : s.abort.errArg1 = s.errArg1 := by
  unfold State.abort; split <;> simp
@[simp] theorem State.abort_width : s.abort.width = s.width := by
  unfold State.abort; split <;> simp
@[simp] theorem State.abort_height : s.abort.height = s.height := by
  unfold State.abort; split <;> simp
@[simp] theorem State.abort_srcLen : s.abort.srcLen = s.srcLen := by
  unfold State.abort; split <;> simp
@[simp] theorem State.abort_src0 : s.abort.src0 = s.src0 := by
  unfold State.abort; split <;> simp
@[simp] theorem State.abort_src1 : s.abort.src1 = s.src1 := by
  unfold State.abort; split <;> simp
@[simp] theorem State.abort_src2 : s.abort.src2 = s.src2 := by
  unfold State.abort; split <;> simp
@[simp] theorem State.abort_dst0 : s.abort.dst0 = s.dst0 := by
  unfold State.abort; split <;> simp
@[simp] theorem State.abort_dst1 : s.abort.dst1 = s.dst1 := by
  unfold State.abort; split <;> simp
@[simp] theorem State.abort_dst2 : s.abort.dst2 = s.dst2 := by
  unfold State.abort; split <;> simp
@[simp] theorem State.abort_pixIn : s.abort.pixIn = s.pixIn := by
  unfold State.abort; split <;> simp
@[simp] theorem State.abort_pixOut : s.abort.pixOut = s.pixOut := by
  unfold State.abort; split <;> simp
@[simp] theorem State.abort_snap : s.abort.snap = s.snap := by
  unfold State.abort; split <;> simp
@[simp] theorem State.abort_resetPin : s.abort.resetPin = s.resetPin := by
  unfold State.abort; split <;> simp
@[simp] theorem State.abort_unobserved : s.abort.unobserved = s.unobserved := by
  unfold State.abort; split <;> simp
@[simp] theorem State.abort_inputs : s.abort.inputs = s.inputs := by
  unfold State.abort; split <;> simp
@[simp] theorem State.abort_responses : s.abort.responses = s.responses := by
  unfold State.abort; split <;> simp
@[simp] theorem State.abort_draws : s.abort.draws = s.draws := by
  unfold State.abort; split <;> simp
@[simp] theorem State.abort_plat : s.abort.plat = s.plat := by
  unfold State.abort; split <;> simp

end Sys2Proof.Machine
end

