-- ==== Sys2Proof/Laws/Command.lean ====
section
/-! SUPPORT. What the validation and the completion of a command can do: one lemma per shared operation, cited instead of
unfolding it. -/

namespace Sys2Proof.Machine

/-! ### Regions -/

theorem Region.has_iff (r : Region) (a : Nat) :
    Region.has r a = true ↔ r.base.toNat ≤ a ∧ a < r.base.toNat + r.len := by simp [Region.has]

theorem Region.mem_addrs (r : Region) (a : Nat) : a ∈ r.addrs ↔ r.base.toNat ≤ a ∧ a < r.base.toNat + r.len := by
  simp only [Region.addrs, List.mem_map, List.mem_range]
  constructor
  · rintro ⟨k, hk, rfl⟩; omega
  · rintro ⟨h1, h2⟩; exact ⟨a - r.base.toNat, by omega, by omega⟩

/-- Past the range check a region is not clipped. -/
theorem Region.clipped_eq {r : Region} (h : r.base.toNat + r.len ≤ memSize) : r.clipped = r.len := by
  unfold Region.clipped; omega

theorem Region.clipped_fits (r : Region) : r.base.toNat + r.clipped ≤ memSize := by
  have := r.base.isLt
  have hsize : memSize = 4294967296 := rfl
  unfold Region.clipped; omega

theorem Region.clipped_le (r : Region) : r.clipped ≤ r.len := by unfold Region.clipped; omega

/-- The range of a region. -/
def Region.range (r : Region) : AddrRange := ⟨r.base.toNat, r.len⟩

def srcRanges (rs : List Region) : List AddrRange := (rs.filter (fun r => !r.slot.isDst)).map Region.range
def dstRanges (rs : List Region) : List AddrRange := (rs.filter (fun r => r.slot.isDst)).map Region.range

/-- In the regions of a command the sources come before the destinations (R92, R117). -/
theorem regions_sources_first (i : Instr) (n : Snap) :
    (regions i n).Pairwise (fun a b => a.slot.isDst = true → b.slot.isDst = true) := by
  cases i <;> simp [regions, Snap.region, Slot.isDst]

/-! ### Validation -/

theorem Snap.even_iff (n : Snap) : n.even = true ↔ n.w.toNat % 2 = 0 ∧ n.h.toNat % 2 = 0 := by
  unfold Snap.even Snap.wid Snap.hei
  rw [Bool.and_eq_true, decide_eq_true_eq, decide_eq_true_eq]

theorem Snap.even_false_iff (n : Snap) : n.even = false ↔ n.w.toNat % 2 = 1 ∨ n.h.toNat % 2 = 1 := by
  rw [← Bool.not_eq_true, Snap.even_iff]
  omega

/-- A dimension zero-extended (R93). -/
theorem dim_setWidth (x : Dim) : x.setWidth 32 = BitVec.ofNat 32 x.toNat := by
  apply BitVec.eq_of_toNat_eq
  simp

theorem evenCheck_none_iff (n : Snap) : evenCheck n = none ↔ n.wid % 2 = 0 ∧ n.hei % 2 = 0 := by
  unfold evenCheck Snap.even
  split <;> simp_all

theorem lengthCheck_none_iff (n : Snap) : lengthCheck n = none ↔ n.srcLen.toNat = n.nv12Len := by
  unfold lengthCheck
  split <;> simp_all

theorem rangeCheck_none_iff (rs : List Region) :
    rangeCheck rs = none ↔ ∀ r ∈ rs, r.base.toNat + r.len ≤ memSize := by
  unfold rangeCheck
  split
  · next r hr =>
    have h1 := List.mem_of_find?_eq_some hr
    have h2 := List.find?_some hr
    simp only [decide_eq_true_eq] at h2
    simp only [reduceCtorEq, false_iff, not_forall]
    exact ⟨r, h1, by omega⟩
  · next h => simpa using h

theorem Region.overlaps_false_iff (a b : Region) :
    Region.overlaps a b = false ↔ AddrRange.apart a.range b.range := by
  simp only [Region.overlaps, AddrRange.apart, Region.range]
  rw [← Bool.not_eq_true]
  simp only [Bool.and_eq_true, decide_eq_true_eq]
  omega

theorem firstOverlap_none_iff (rs : List Region) :
    firstOverlap rs = none ↔ rs.Pairwise (fun a b => b.slot.isDst = true → AddrRange.apart a.range b.range) := by
  induction rs with
  | nil => simp [firstOverlap]
  | cons a rest ih =>
    unfold firstOverlap
    rw [List.pairwise_cons]
    split
    · next b hb =>
      have h1 := List.mem_of_find?_eq_some hb
      have h2 := List.find?_some hb
      simp only [Bool.and_eq_true] at h2
      simp only [reduceCtorEq, false_iff, not_and]
      intro h
      have := (Region.overlaps_false_iff a b).mpr (h b h1 h2.1)
      simp [this] at h2
    · next hn =>
      rw [ih]
      simp only [iff_and_self]
      intro _ b hb hd
      have := List.find?_eq_none.mp hn b hb
      simp only [hd, Bool.true_and, Bool.not_eq_true] at this
      exact (Region.overlaps_false_iff a b).mp this

theorem overlapCheck_none_iff (rs : List Region) :
    overlapCheck rs = none ↔ rs.Pairwise (fun a b => b.slot.isDst = true → AddrRange.apart a.range b.range) := by
  rw [← firstOverlap_none_iff]
  unfold overlapCheck
  split <;> simp_all

/-- When a memory command passes its validation (R114). -/
theorem validate_none_iff (i : Instr) (l : Bool) (n : Snap) :
    validate i l n = none ↔
      (n.wid % 2 = 0 ∧ n.hei % 2 = 0) ∧ (l = true → n.srcLen.toNat = n.nv12Len) ∧
      (∀ r ∈ regions i n, r.base.toNat + r.len ≤ memSize) ∧
      (regions i n).Pairwise (fun a b => b.slot.isDst = true → AddrRange.apart a.range b.range) := by
  unfold validate
  rw [← evenCheck_none_iff, ← lengthCheck_none_iff, ← rangeCheck_none_iff, ← overlapCheck_none_iff]
  cases h1 : evenCheck n with
  | some e => simp
  | none =>
    cases l with
    | false => cases h3 : rangeCheck (regions i n) <;> simp
    | true =>
      cases h2 : lengthCheck n with
      | some e => simp
      | none => cases h3 : rangeCheck (regions i n) <;> simp

/-- The errors that validation can raise, and with which arguments (R115 to R119). -/
theorem validate_some {i : Instr} {l : Bool} {n : Snap} {e : Raise} (h : validate i l n = some e) :
    (n.even = false ∧ e = ⟨.dimension, n.w.setWidth 32, n.h.setWidth 32⟩) ∨
    (n.even = true ∧ l = true ∧ n.srcLen.toNat ≠ n.nv12Len ∧
      e = ⟨.sizeMismatch, BitVec.ofNat 32 n.nv12Len, n.srcLen⟩) ∨
    (n.even = true ∧ ∃ r ∈ regions i n, memSize < r.base.toNat + r.len ∧ e = ⟨.range, r.base, BitVec.ofNat 32 r.len⟩) ∨
    (n.even = true ∧ (∀ r ∈ regions i n, r.base.toNat + r.len ≤ memSize) ∧ ∃ a b,
      firstOverlap (regions i n) = some (a, b) ∧
      e = ⟨.overlap, BitVec.ofNat 32 a.slot.index, BitVec.ofNat 32 b.slot.index⟩) := by
  have hrange : ∀ e', rangeCheck (regions i n) = some e' →
      ∃ r ∈ regions i n, memSize < r.base.toNat + r.len ∧ e' = ⟨.range, r.base, BitVec.ofNat 32 r.len⟩ := by
    intro e' he
    unfold rangeCheck at he
    split at he
    · next r hr =>
      cases he
      exact ⟨r, List.mem_of_find?_eq_some hr, by simpa using List.find?_some hr, rfl⟩
    · cases he
  have hover : ∀ e', overlapCheck (regions i n) = some e' → ∃ a b,
      firstOverlap (regions i n) = some (a, b) ∧
      e' = ⟨.overlap, BitVec.ofNat 32 a.slot.index, BitVec.ofNat 32 b.slot.index⟩ := by
    intro e' he
    unfold overlapCheck at he
    split at he
    · next a b hab => cases he; exact ⟨a, b, hab, rfl⟩
    · cases he
  unfold validate at h
  cases h1 : evenCheck n with
  | some e1 =>
    rw [h1] at h
    simp only [Option.some.injEq] at h
    subst h
    unfold evenCheck at h1
    split at h1
    · cases h1
    · next hne => left; cases h1; exact ⟨by simpa using hne, rfl⟩
  | none =>
    rw [h1] at h
    have heven : n.even = true := by
      have := (evenCheck_none_iff n).mp h1
      simp [Snap.even, this]
    right
    cases h2 : (if l = true then lengthCheck n else none) with
    | some e2 =>
      left
      simp only [h2, Option.some.injEq] at h
      subst h
      split at h2
      · next hl =>
        unfold lengthCheck at h2
        split at h2
        · cases h2
        · next hne => cases h2; exact ⟨heven, hl, hne, rfl⟩
      · cases h2
    | none =>
      right
      simp only [h2] at h
      cases h3 : rangeCheck (regions i n) with
      | some e3 =>
        left
        simp only [h3, Option.some.injEq] at h
        subst h
        exact ⟨heven, hrange _ h3⟩
      | none =>
        right
        simp only [h3] at h
        exact ⟨heven, (rangeCheck_none_iff _).mp h3, hover _ h⟩

/-! ### Bus errors -/

theorem mem_badAccesses (p : Platform) (rs : List Region) (a : Nat) (d : Dir) :
    (a, d) ∈ badAccesses p rs ↔ ∃ r ∈ rs, Region.has r a = true ∧ d = r.dir ∧ busOk p a d = false := by
  simp only [badAccesses, List.mem_flatMap, List.mem_map, List.mem_filter, Region.mem_addrs, Region.has_iff,
    Bool.not_eq_true', Prod.mk.injEq]
  constructor
  · rintro ⟨r, hr, b, ⟨hb, hbad⟩, rfl, rfl⟩; exact ⟨r, hr, hb, rfl, hbad⟩
  · rintro ⟨r, hr, ha, rfl, hbad⟩; exact ⟨r, hr, a, ⟨ha, hbad⟩, rfl, rfl⟩

/-- The access drawn is one of Bad, and there is one unless Bad is empty (R206). -/
theorem pickBad_mem {draw : Nat} {bad : List (Nat × Dir)} {x : Nat × Dir} (h : pickBad draw bad = some x) : x ∈ bad := by
  unfold pickBad at h
  split at h
  · cases h
  · cases h; simp
  · next y z rest =>
    cases h
    rw [List.getD_eq_getElem?_getD, List.getElem?_eq_getElem (Nat.mod_lt _ (by simp))]
    exact List.getElem_mem _

theorem pickBad_none_iff (draw : Nat) (bad : List (Nat × Dir)) : pickBad draw bad = none ↔ bad = [] := by
  unfold pickBad
  split <;> simp

theorem touchesDevice_false_iff (p : Platform) (rs : List Region) :
    touchesDevice p rs = false ↔ ∀ r ∈ rs, ∀ a, Region.has r a = true → isDevice p a = false := by
  simp [touchesDevice, Region.mem_addrs, Region.has_iff]

/-! ### Writing the destination regions -/

/-- A byte in no destination region reads as before (R69). -/
theorem State.read_dmaWriteAll_out (s : State) (rs : List Region) (f : Slot → Nat → Byte) {a : Nat}
    (h : ∀ r ∈ rs, r.slot.isDst = true → ¬(Region.has r a = true)) :
    Memory.read (s.dmaWriteAll rs f).mem a = Memory.read s.mem a := by
  induction rs generalizing s with
  | nil => rfl
  | cons r rest ih =>
    rw [State.dmaWriteAll, ih _ (fun q hq => h q (List.mem_cons_of_mem _ hq))]
    split
    · next hd =>
      have := h r (List.mem_cons_self ..) hd
      rw [Region.has_iff] at this
      rw [State.dmaWrite_mem, Memory.read_writeN_out]
      have := Region.clipped_le r
      omega
    · rfl

theorem State.wf_dmaWriteAll (s : State) (rs : List Region) (f : Slot → Nat → Byte) (h : Memory.wf s.mem = true) :
    Memory.wf (s.dmaWriteAll rs f).mem = true := by
  induction rs generalizing s with
  | nil => exact h
  | cons r rest ih =>
    rw [State.dmaWriteAll]
    apply ih
    split
    · exact Memory.wf_writeN h _ _ _ (Region.clipped_fits r)
    · exact h

/-- A byte of a destination region holds what the command gives it (R69, R120), when no two destinations overlap. -/
theorem State.read_dmaWriteAll_in (s : State) (rs : List Region) (f : Slot → Nat → Byte) (h : Memory.wf s.mem = true)
    (hfit : ∀ r ∈ rs, r.base.toNat + r.len ≤ memSize)
    (hpair : rs.Pairwise (fun a b => b.slot.isDst = true → AddrRange.apart a.range b.range))
    {r : Region} (hr : r ∈ rs) (hd : r.slot.isDst = true) {k : Nat} (hk : k < r.len) :
    Memory.read (s.dmaWriteAll rs f).mem (r.base.toNat + k) = f r.slot k := by
  induction rs generalizing s with
  | nil => cases hr
  | cons q rest ih =>
    rw [List.pairwise_cons] at hpair
    rw [State.dmaWriteAll]
    cases hr with
    | head =>
      rw [State.read_dmaWriteAll_out, if_pos hd, State.dmaWrite_mem,
        Region.clipped_eq (hfit r (List.mem_cons_self ..))]
      · exact Memory.read_writeN_in h _ _ _ (hfit r (List.mem_cons_self ..)) hk
      · intro b hb hbd hbad
        rw [Region.has_iff] at hbad
        have := hpair.1 b hb hbd
        simp only [AddrRange.apart, Region.range] at this
        omega
    | tail _ ht =>
      refine ih _ ?_ (fun b hb => hfit b (List.mem_cons_of_mem _ hb)) hpair.2 ht
      split
      · exact Memory.wf_writeN h _ _ _ (Region.clipped_fits q)
      · exact h

/-- With a coherent DMA the writes leave nothing for the host to maintain (R78). -/
theorem State.dmaWriteAll_coherent (s : State) (rs : List Region) (f : Slot → Nat → Byte)
    (h : s.plat.dmaCoherent = true) :
    (s.dmaWriteAll rs f).dirty = s.dirty ∧ (s.dmaWriteAll rs f).stale = s.stale := by
  induction rs generalizing s with
  | nil => exact ⟨rfl, rfl⟩
  | cons r rest ih =>
    rw [State.dmaWriteAll]
    split
    · have := ih (s.dmaWrite r (f r.slot)) (by simpa using h)
      simpa [h] using this
    · exact ih s h

theorem State.wf_dmaWriteAll_sets (s : State) (rs : List Region) (f : Slot → Nat → Byte)
    (hd : AddrSet.wf s.dirty = true) (hs : AddrSet.wf s.stale = true) :
    AddrSet.wf (s.dmaWriteAll rs f).dirty = true ∧ AddrSet.wf (s.dmaWriteAll rs f).stale = true := by
  induction rs generalizing s with
  | nil => exact ⟨hd, hs⟩
  | cons r rest ih =>
    rw [State.dmaWriteAll]
    apply ih
    · split
      · rw [State.dmaWrite_dirty]; split
        · exact hd
        · exact AddrSet.wf_dropRange hd _ _
      · exact hd
    · split
      · rw [State.dmaWrite_stale]; split
        · exact hs
        · exact AddrSet.wf_insertN hs _ _ (Region.clipped_fits r)
      · exact hs

/-- Writing destination regions changes memory and the marks of the host's cached copies, nothing else. -/
theorem State.dmaWriteAll_frame (s : State) (rs : List Region) (f : Slot → Nat → Byte) :
    s.dmaWriteAll rs f =
      { s with mem := (s.dmaWriteAll rs f).mem, dirty := (s.dmaWriteAll rs f).dirty, stale := (s.dmaWriteAll rs f).stale } := by
  induction rs generalizing s with
  | nil => rfl
  | cons r rest ih =>
    rw [State.dmaWriteAll]
    split
    · rw [ih]; simp [State.dmaWrite]
    · exact ih s

/-! ### The completion -/

/-- Everything the completion of a memory command can do when it answers a next state: an error before any access (R121), an
IO error (R206), or success (R120). -/
theorem memoryCommand_cases {i : Instr} {l : Bool} {out : Produce} {s t : State}
    (h : memoryCommand i l out s = .next t) :
    (∃ e, validate i l s.snap = some e ∧ t = s.raise e.code e.arg0 e.arg1) ∨
    (validate i l s.snap = none ∧ ∃ a d, (a, d) ∈ badAccesses s.plat (regions i s.snap) ∧
      t = (s.scramble (regions i s.snap)).raise .io (BitVec.ofNat 32 a) (dirCode d)) ∨
    (validate i l s.snap = none ∧ badAccesses s.plat (regions i s.snap) = [] ∧
      touchesDevice s.plat (regions i s.snap) = false ∧
      t = (s.dmaWriteAll (regions i s.snap) (out s.plat s.snap s.sourceByte)).finishOk) := by
  unfold memoryCommand at h
  split at h
  · next e he => left; exact ⟨e, he, by cases h; rfl⟩
  · next hv =>
    right
    split at h
    · cases h
    · next hdev =>
      split at h
      · next a d hp => left; exact ⟨hv, a, d, pickBad_mem hp, by cases h; rfl⟩
      · next hp =>
        right
        exact ⟨hv, (pickBad_none_iff _ _).mp hp, by simpa using hdev, by cases h; rfl⟩

/-- A memory command whose validation passes and whose regions answer completes with DONE (R120). -/
theorem memoryCommand_ok {i : Instr} {l : Bool} (out : Produce) {s : State} (hv : validate i l s.snap = none)
    (hbad : badAccesses s.plat (regions i s.snap) = []) (hdev : touchesDevice s.plat (regions i s.snap) = false) :
    memoryCommand i l out s =
      .next ((s.dmaWriteAll (regions i s.snap) (out s.plat s.snap s.sourceByte)).finishOk) := by
  simp [memoryCommand, hv, hbad, hdev, pickBad]

theorem memoryCommand_error {i : Instr} {l : Bool} (out : Produce) {s : State} {e : Raise}
    (hv : validate i l s.snap = some e) : memoryCommand i l out s = .next (s.raise e.code e.arg0 e.arg1) := by
  simp [memoryCommand, hv]

/-- Usable buffers, said of the regions of a command. -/
theorem usable_regions {i : Instr} {n : Snap} {p : Platform}
    (h : BuffersUsable p (srcRanges (regions i n)) (dstRanges (regions i n))) :
    (∀ r ∈ regions i n, r.base.toNat + r.len ≤ memSize) ∧
    (regions i n).Pairwise (fun a b => b.slot.isDst = true → AddrRange.apart a.range b.range) ∧
    badAccesses p (regions i n) = [] ∧ touchesDevice p (regions i n) = false := by
  have hsplit : ∀ r ∈ regions i n,
      (r.slot.isDst = false ∧ r.range ∈ srcRanges (regions i n)) ∨
      (r.slot.isDst = true ∧ r.range ∈ dstRanges (regions i n)) := by
    intro r hr
    cases hd : r.slot.isDst with
    | false => exact .inl ⟨rfl, List.mem_map.mpr ⟨r, List.mem_filter.mpr ⟨hr, by simp [hd]⟩, rfl⟩⟩
    | true => exact .inr ⟨rfl, List.mem_map.mpr ⟨r, List.mem_filter.mpr ⟨hr, hd⟩, rfl⟩⟩
  have hans : ∀ r ∈ regions i n, AddrRange.answers p r.dir r.range := by
    intro r hr
    rcases hsplit r hr with ⟨hd, hm⟩ | ⟨hd, hm⟩
    · simpa [Region.dir, hd] using h.srcAnswers _ hm
    · simpa [Region.dir, hd] using h.dstAnswers _ hm
  refine ⟨?_, ?_, ?_, ?_⟩
  · intro r hr
    rcases hsplit r hr with ⟨_, hm⟩ | ⟨_, hm⟩
    · exact h.srcFits _ hm
    · exact h.dstFits _ hm
  · have hdd : (regions i n).Pairwise (fun a b => a.slot.isDst = true → b.slot.isDst = true → AddrRange.apart a.range b.range) := by
      have := h.dstDst
      rw [dstRanges, List.pairwise_map, List.pairwise_filter] at this
      exact this
    refine List.Pairwise.imp_of_mem ?_ hdd
    intro a b ha hb hab hbd
    rcases hsplit a ha with ⟨_, hma⟩ | ⟨had, _⟩
    · rcases hsplit b hb with ⟨hf, _⟩ | ⟨_, hmb⟩
      · rw [hf] at hbd; cases hbd
      · exact h.srcDst _ hma _ hmb
    · exact hab had hbd
  · rw [List.eq_nil_iff_forall_not_mem]
    rintro ⟨a, d⟩ hmem
    obtain ⟨r, hr, hin, rfl, hbad⟩ := (mem_badAccesses _ _ _ _).mp hmem
    rw [Region.has_iff] at hin
    have := (hans r hr a hin.1 hin.2).1
    rw [hbad] at this; cases this
  · rw [touchesDevice_false_iff]
    intro r hr a hin
    rw [Region.has_iff] at hin
    exact (hans r hr a hin.1 hin.2).2

theorem inRanges_dstRanges (rs : List Region) (a : Nat) :
    inRanges (dstRanges rs) a = true ↔ ∃ r ∈ rs, r.slot.isDst = true ∧ Region.has r a = true := by
  simp only [inRanges, dstRanges, List.any_eq_true, List.mem_map, List.mem_filter]
  constructor
  · rintro ⟨_, ⟨r, ⟨hr, hd⟩, rfl⟩, hh⟩; exact ⟨r, hr, hd, hh⟩
  · rintro ⟨r, hr, hd, hh⟩; exact ⟨_, ⟨r, ⟨hr, hd⟩, rfl⟩, hh⟩

theorem dstRanges_cons (r : Region) (rs : List Region) :
    dstRanges (r :: rs) = if r.slot.isDst then r.range :: dstRanges rs else dstRanges rs := by
  unfold dstRanges
  rw [List.filter_cons]
  split <;> rfl

/-- Without a coherent DMA the writes take the bytes of the destinations out of `dirty` and put them into `stale` (R78). -/
theorem State.dmaWriteAll_marks (s : State) (rs : List Region) (f : Slot → Nat → Byte)
    (hc : s.plat.dmaCoherent = false) (hfit : ∀ r ∈ rs, r.base.toNat + r.len ≤ memSize) (a : Nat) :
    AddrSet.has (s.dmaWriteAll rs f).dirty a = (AddrSet.has s.dirty a && !inRanges (dstRanges rs) a) ∧
    AddrSet.has (s.dmaWriteAll rs f).stale a = (AddrSet.has s.stale a || inRanges (dstRanges rs) a) := by
  induction rs generalizing s with
  | nil => simp [State.dmaWriteAll, dstRanges, inRanges]
  | cons r rest ih =>
    have hr := Region.clipped_eq (hfit r (List.mem_cons_self ..))
    rw [State.dmaWriteAll, dstRanges_cons]
    have hrest := fun b hb => hfit b (List.mem_cons_of_mem _ hb)
    split
    · have := ih (s.dmaWrite r (f r.slot)) (by simpa using hc) hrest
      rw [this.1, this.2, State.dmaWrite_dirty, State.dmaWrite_stale, hc, hr]
      simp only [Bool.false_eq_true, if_false, AddrSet.has_dropRange, AddrSet.has_insertN, inRanges, List.any_cons,
        AddrRange.has, Region.range]
      constructor
      · cases AddrSet.has s.dirty a <;> simp
      · cases AddrSet.has s.stale a <;> simp
    · exact ih s hc hrest

/-- The result of a memory command on usable buffers: every destination byte as the command's rule gives it, and
`CompletesWriting` (R69, R120). -/
theorem memoryCommand_result {i : Instr} {l : Bool} (out : Produce) {s : State} (hm : Memory.wf s.mem = true)
    (heven : s.snap.wid % 2 = 0 ∧ s.snap.hei % 2 = 0) (hlen : l = true → s.snap.srcLen.toNat = s.snap.nv12Len)
    (hu : BuffersUsable s.plat (srcRanges (regions i s.snap)) (dstRanges (regions i s.snap))) :
    ∃ t, memoryCommand i l out s = .next t ∧ CompletesWriting s t (dstRanges (regions i s.snap)) ∧
      (∀ r ∈ regions i s.snap, r.slot.isDst = true → ∀ k < r.len,
        Memory.read t.mem (r.base.toNat + k) = out s.plat s.snap s.sourceByte r.slot k) := by
  obtain ⟨hfit, hpair, hbad, hdev⟩ := usable_regions hu
  have hv : validate i l s.snap = none := (validate_none_iff _ _ _).mpr ⟨heven, hlen, hfit, hpair⟩
  refine ⟨_, memoryCommand_ok out hv hbad hdev, ⟨?_, ?_, ?_, ?_, ?_, ?_⟩, ?_⟩
  · intro a ha
    refine State.read_dmaWriteAll_out _ _ _ fun r hr hd hh => ?_
    rw [(inRanges_dstRanges _ _).mpr ⟨r, hr, hd, hh⟩] at ha
    cases ha
  · exact State.wf_dmaWriteAll _ _ _ hm
  · intro hc
    exact State.dmaWriteAll_coherent _ _ _ hc
  · intro hc a
    exact (State.dmaWriteAll_marks _ _ _ hc hfit a).1
  · intro hc a
    exact (State.dmaWriteAll_marks _ _ _ hc hfit a).2
  · rw [State.finishOk, State.dmaWriteAll_frame]
  · intro r hr hd k hk
    exact State.read_dmaWriteAll_in _ _ _ hm hfit hpair hr hd hk

end Sys2Proof.Machine
end

