-- ==== Sys2Proof/Laws/Layout.lean ====
section
/-! SUPPORT. The buffer layouts of 20_memory.md R70 to R75: where a sample stands, that it stands inside the buffer, and what
the row-major views and the NV12 views return there. -/

namespace Sys2Proof.Machine

/-- A sample of a W×H plane stands inside its buffer (R71). -/
theorem plane_index_lt {w h y x : Nat} (hy : y < h) (hx : x < w) : y * w + x < w * h := by
  have : (y + 1) * w ≤ h * w := Nat.mul_le_mul_right w hy
  rw [Nat.add_mul, Nat.mul_comm h w] at this
  omega

/-- A quarter plane has a quarter of the samples, W and H even (R72, R92). -/
theorem quarter_area {w h : Nat} (hw : w % 2 = 0) (hh : h % 2 = 0) : w / 2 * (h / 2) = w * h / 4 := by
  obtain ⟨a, rfl⟩ : ∃ a, w = 2 * a := ⟨w / 2, by omega⟩
  obtain ⟨b, rfl⟩ : ∃ b, h = 2 * b := ⟨h / 2, by omega⟩
  have : 2 * a * (2 * b) = 4 * (a * b) := by ring
  rw [this, Nat.mul_div_cancel_left _ (by omega), Nat.mul_div_cancel_left _ (by omega), Nat.mul_div_cancel_left _ (by omega)]

theorem quarter_index_lt {w h i j : Nat} (hw : w % 2 = 0) (hh : h % 2 = 0) (hi : i < h / 2) (hj : j < w / 2) :
    i * (w / 2) + j < w * h / 4 := by
  rw [← quarter_area hw hh]
  exact plane_index_lt hi hj

/-- The length of an NV12 buffer (R73). -/
theorem nv12_len {w h : Nat} (hw : w % 2 = 0) : 3 * (w * h) / 2 = w * h + w / 2 * h := by
  obtain ⟨a, rfl⟩ : ∃ a, w = 2 * a := ⟨w / 2, by omega⟩
  have h1 : 2 * a * h = 2 * (a * h) := by ring
  rw [h1, Nat.mul_div_cancel_left a (by omega)]
  omega

/-- A U or V sample stands inside the NV12 buffer, after the Y plane (R73, R75). -/
theorem nv12_uv_index_lt {w h i j : Nat} (hw : w % 2 = 0) (hh : h % 2 = 0) (hi : i < h / 2) (hj : j < w / 2) :
    w * h + i * w + 2 * j + 1 < 3 * (w * h) / 2 := by
  have h1 := plane_index_lt (w := w) (h := h / 2) (y := i) (x := 2 * j + 1) hi (by omega)
  have h2 : w * (h / 2) = w / 2 * h := by
    obtain ⟨a, rfl⟩ : ∃ a, w = 2 * a := ⟨w / 2, by omega⟩
    obtain ⟨b, rfl⟩ : ∃ b, h = 2 * b := ⟨h / 2, by omega⟩
    rw [Nat.mul_div_cancel_left _ (by omega), Nat.mul_div_cancel_left _ (by omega)]; ring
  rw [nv12_len hw]
  omega

theorem nv12_y_index_lt {w h k : Nat} (hk : k < w * h) : k < 3 * (w * h) / 2 := by omega

/-- The row and the column of an offset in a row-major buffer. -/
theorem row_of {w y x : Nat} (hx : x < w) : (y * w + x) / w = y := by
  rw [Nat.mul_comm, Nat.mul_add_div (by omega), Nat.div_eq_of_lt hx, Nat.add_zero]

theorem col_of {w y x : Nat} (hx : x < w) : (y * w + x) % w = x := by
  rw [Nat.mul_comm, Nat.mul_add_mod, Nat.mod_eq_of_lt hx]

/-- Every offset of a plane is the offset of one sample. -/
theorem offset_split {w h k : Nat} (hk : k < w * h) : k / w < h ∧ k % w < w ∧ k / w * w + k % w = k := by
  have hw : 0 < w := Nat.pos_of_ne_zero (by rintro rfl; simp at hk)
  refine ⟨Nat.div_lt_of_lt_mul hk, Nat.mod_lt _ hw, ?_⟩
  rw [Nat.mul_comm]; exact Nat.div_add_mod k w

theorem planeByte_at {w : Nat} (p : Plane) {y x : Nat} (hx : x < w) : planeByte w p (y * w + x) = p y x := by
  rw [planeByte, row_of hx, col_of hx]

theorem packByte_y {w h : Nat} (yp uq vq : Plane) {y x : Nat} (hy : y < h) (hx : x < w) :
    packByte w h yp uq vq (y * w + x) = yp y x := by
  rw [packByte, if_pos (plane_index_lt hy hx), row_of hx, col_of hx]

theorem packByte_u {w h : Nat} (yp uq vq : Plane) {i j : Nat} (hj : j < w / 2) :
    packByte w h yp uq vq (w * h + i * w + 2 * j) = uq i j := by
  have h1 : w * h + i * w + 2 * j - w * h = i * w + 2 * j := by omega
  rw [packByte, if_neg (by omega), h1, row_of (by omega), col_of (by omega)]
  simp

theorem packByte_v {w h : Nat} (yp uq vq : Plane) {i j : Nat} (hj : 2 * j + 1 < w) :
    packByte w h yp uq vq (w * h + i * w + 2 * j + 1) = vq i j := by
  have h1 : w * h + i * w + 2 * j + 1 - w * h = i * w + (2 * j + 1) := by omega
  have h3 : (2 * j + 1) / 2 = j := by omega
  rw [packByte, if_neg (by omega), h1, row_of (by omega), col_of (by omega)]
  simp [h3]

theorem rgbByte_at {p : Platform} {w : Nat} (yp up vp : Plane) {y x : Nat} (c : Nat) (hx : x < w) (hc : c < 3) :
    rgbByte p w yp up vp (3 * (y * w + x) + c) = (yuvToRgb p (yp y x) (up y x) (vp y x)).byte c := by
  have h1 : (3 * (y * w + x) + c) / 3 = y * w + x := by omega
  have h2 : (3 * (y * w + x) + c) % 3 = c := by omega
  rw [rgbByte, h1, h2, row_of hx, col_of hx]

end Sys2Proof.Machine
end

