-- ==== Sys2Proof/Laws/PerInstr.lean ====
section
/-! SUPPORT. Statements about every command as syntax, one lemma per constructor. -/

namespace Sys2Proof.Laws.EncodesLegalWord

/-- The word of a command is a legal command word, its OP is at most 0xA, and the decoder reads the command back from it
(R90, R91, R95). -/
def Statement (i : Instr) : Prop :=
  (CmdWord.ofWord (encode i)).wf = true ∧ (CmdWord.ofWord (encode i)).toWord = encode i ∧ decode (encode i) = .ok i ∧
    Instr.wf i = true

theorem nop : Statement .nop := ⟨by decide, by decide, rfl, rfl⟩
theorem encode : Statement .encode := ⟨by decide, by decide, rfl, rfl⟩
theorem decode : Statement .decode := ⟨by decide, by decide, rfl, rfl⟩
theorem rgb2yuv : Statement .rgb2yuv := ⟨by decide, by decide, rfl, rfl⟩
theorem yuv2rgb : Statement .yuv2rgb := ⟨by decide, by decide, rfl, rfl⟩
theorem subsample : Statement .subsample := ⟨by decide, by decide, rfl, rfl⟩
theorem upsample : Statement .upsample := ⟨by decide, by decide, rfl, rfl⟩
theorem pack : Statement .pack := ⟨by decide, by decide, rfl, rfl⟩
theorem unpack : Statement .unpack := ⟨by decide, by decide, rfl, rfl⟩
theorem pixRgb2yuv : Statement .pixRgb2yuv := ⟨by decide, by decide, rfl, rfl⟩
theorem pixYuv2rgb : Statement .pixYuv2rgb := ⟨by decide, by decide, rfl, rfl⟩

end Sys2Proof.Laws.EncodesLegalWord
end

