-- ==== Sys2Proof/Laws/Step.lean ====
section
/-! SUPPORT. What a step and the agents' turns can do, said once, and the small lemmas of the CSR map and the decoder. -/

namespace Sys2Proof

/-! ### The decoder -/

/-- A word decodes to a command exactly when it is that command's word (R91, R95), for a given command. -/
theorem opRow_matches_iff (p c : Word) (i : Instr) : OpRow.matches ⟨p, 0xFFFFFFFF#32, i⟩ c = true ↔ c = p := by
  have h : c &&& 0xFFFFFFFF#32 = c := BitVec.and_allOnes
  rw [OpRow.matches, h, beq_iff_eq]

theorem decode_error_iff (c : Word) :
    (∃ e, decode c = .error e) ↔ ∀ r ∈ opcodeMap, c ≠ r.pattern := by
  have hmask : ∀ r ∈ opcodeMap, (OpRow.matches r c = true ↔ c = r.pattern) := by
    intro r hr
    simp only [opcodeMap, List.mem_cons, List.not_mem_nil, or_false] at hr
    rcases hr with rfl | rfl | rfl | rfl | rfl | rfl | rfl | rfl | rfl | rfl | rfl <;> exact opRow_matches_iff _ _ _
  unfold decode
  cases hf : opcodeMap.find? (fun r => r.matches c) with
  | some r =>
    have h1 := List.mem_of_find?_eq_some hf
    have h2 := (hmask r h1).mp (by simpa using List.find?_some hf)
    constructor
    · rintro ⟨e, he⟩; cases he
    · intro h; exact absurd h2 (h r h1)
  | none =>
    rw [List.find?_eq_none] at hf
    constructor
    · intro _ r hr hc; exact hf r hr ((hmask r hr).mpr hc)
    · intro _; exact ⟨_, rfl⟩

end Sys2Proof

namespace Sys2Proof.Machine

/-! ### The CSR map -/

@[simp] theorem csrAt_csrOffset (c : Csr) : csrAt (csrOffset c) = some c := by cases c <;> rfl

theorem csrAt_some {off : Nat} {c : Csr} (h : csrAt off = some c) : off = csrOffset c := by
  have h' : (csrOffset c == off) = true := List.find?_some (p := fun c => csrOffset c == off) h
  exact (beq_iff_eq.mp h').symm

@[simp] theorem csrAccessOk_csrOffset (c : Csr) : csrAccessOk (csrOffset c) .w32 = true := by cases c <;> decide

theorem csrOffset_lt (c : Csr) : csrOffset c < windowSize := by cases c <;> decide

@[simp] theorem windowOffset_add (base off : Nat) :
    windowOffset base (base + off) = if off < windowSize then some off else none := by
  unfold windowOffset
  by_cases h : off < windowSize
  · rw [if_pos ⟨by omega, by omega⟩, if_pos h]; simp
  · rw [if_neg (by omega), if_neg h]

theorem windowOffset_csr (base : Nat) (c : Csr) : windowOffset base (base + csrOffset c) = some (csrOffset c) := by
  rw [windowOffset_add, if_pos (csrOffset_lt c)]

/-! ### Steps -/

theorem step_nil {s : State} (h : s.inputs = []) : step s = quietTurn s := by unfold step; rw [h]

theorem step_cons {s : State} {e : Event} {rest : List Event} (h : s.inputs = e :: rest) : step s = turn e s.tick := by
  unfold step; rw [h]

theorem softResets_csrOffset (c : Csr) (v : Word) :
    softResets (csrOffset c) v = (decide (c = .ctrl) && v.getLsbD 1) := by
  simp [softResets]

/-- The step's bookkeeping does not matter to whether an abort faults. -/
@[simp] theorem State.tick_abortFaults (s : State) : s.tick.abortFaults = s.abortFaults := rfl

/-- A write of a defined CSR by the host, reset not asserted (R41), other than a soft reset that faults. -/
theorem step_csrWrite {s : State} {rest : List Event} (c : Csr) (v : Word)
    (h : s.inputs = .csrWrite (s.plat.csrBase + csrOffset c) .w32 v :: rest) (hr : s.resetPin = false)
    (hf : c = .ctrl → v.getLsbD 1 = true → s.abortFaults = false) :
    step s = .next ((s.tick.writeCsr c v).respond .writeOk) := by
  have hf' : (softResets (csrOffset c) v && s.tick.abortFaults) = false := by
    rw [softResets_csrOffset, State.tick_abortFaults, Bool.and_eq_false_iff, Bool.and_eq_false_iff]
    by_cases hc : c = .ctrl
    · cases hv : v.getLsbD 1
      · exact .inl (.inr rfl)
      · exact .inr (hf hc hv)
    · exact .inl (.inl (decide_eq_false hc))
  rw [step_cons h]
  simp only [turn, csrWrite, State.tick_plat, windowOffset_csr, State.tick_resetPin, hr, Bool.false_eq_true, if_false,
    csrAccessOk_csrOffset, if_true, hf', State.writeOffset, csrAt_csrOffset]

/-- A soft reset that would abort a command on memory with side effects faults the run (R65; log 13). -/
theorem step_softReset_fault {s : State} {rest : List Event} {v : Word}
    (h : s.inputs = .csrWrite (s.plat.csrBase + csrOffset .ctrl) .w32 v :: rest) (hr : s.resetPin = false)
    (hv : v.getLsbD 1 = true) (hf : s.abortFaults = true) : step s = .fault .deviceRegion := by
  rw [step_cons h]
  simp only [turn, csrWrite, State.tick_plat, windowOffset_csr, State.tick_resetPin, hr, Bool.false_eq_true, if_false,
    csrAccessOk_csrOffset, if_true, softResets_csrOffset, hv, decide_true, Bool.and_self, State.tick_abortFaults, hf]

/-- A read of a defined CSR by the host, reset not asserted (R41). -/
theorem step_csrRead {s : State} {rest : List Event} (c : Csr)
    (h : s.inputs = .csrRead (s.plat.csrBase + csrOffset c) .w32 :: rest) (hr : s.resetPin = false) :
    step s = .next ((s.tick.observeStatus (csrOffset c)).respond (.readData (s.tick.csrValue c))) := by
  rw [step_cons h]
  simp [turn, csrRead, hr, State.readOffset, csrOffset_lt]

/-- Everything a CSR write can do when it answers a next state. -/
theorem csrWrite_cases {addr : Nat} {w : Width} {v : Word} {s t : State} (h : csrWrite addr w v s = .next t) :
    ∃ off, windowOffset s.plat.csrBase addr = some off ∧
      ((s.resetPin = true ∧ t = s.respond .noAnswer) ∨
       (s.resetPin = false ∧ csrAccessOk off w = true ∧ (softResets off v = true → s.abortFaults = false) ∧
         t = (s.writeOffset off v).respond .writeOk) ∨
       (s.resetPin = false ∧ csrAccessOk off w = false ∧ t = s.respond .writeError)) := by
  unfold csrWrite at h
  split at h
  · cases h
  · next off ho =>
    refine ⟨off, ho, ?_⟩
    split at h
    · next hr => exact .inl ⟨hr, by cases h; rfl⟩
    · next hr =>
      have hr : s.resetPin = false := by simpa using hr
      split at h
      · next hok =>
        split at h
        · cases h
        · next hf =>
          refine .inr (.inl ⟨hr, hok, fun hs => ?_, by cases h; rfl⟩)
          rw [hs, Bool.true_and] at hf
          simpa using hf
      · next hok => exact .inr (.inr ⟨hr, by simpa using hok, by cases h; rfl⟩)

/-- Everything a CSR read can do when it answers a next state. -/
theorem csrRead_cases {addr : Nat} {w : Width} {s t : State} (h : csrRead addr w s = .next t) :
    ∃ off, windowOffset s.plat.csrBase addr = some off ∧
      ((s.resetPin = true ∧ t = s.respond .noAnswer) ∨
       (s.resetPin = false ∧ csrAccessOk off w = true ∧
         t = (s.observeStatus off).respond (.readData (s.readOffset off))) ∨
       (s.resetPin = false ∧ csrAccessOk off w = false ∧ t = s.respond (.readError 0#32))) := by
  unfold csrRead at h
  split at h
  · cases h
  · next off ho =>
    refine ⟨off, ho, ?_⟩
    split at h
    · next hr => exact .inl ⟨hr, by cases h; rfl⟩
    · next hr =>
      have hr : s.resetPin = false := by simpa using hr
      split at h
      · next hok => exact .inr (.inl ⟨hr, hok, by cases h; rfl⟩)
      · next hok => exact .inr (.inr ⟨hr, by simpa using hok, by cases h; rfl⟩)

/-- A read changes at most what the host has observed. -/
theorem observeStatus_cases (s : State) (off : Nat) :
    s.observeStatus off = s ∨ (s.busy = false ∧ s.observeStatus off = { s with unobserved := [] }) := by
  unfold State.observeStatus
  split
  · split
    · exact .inl rfl
    · next hb => exact .inr ⟨by simpa using hb, rfl⟩
  · exact .inl rfl

/-- Everything a change of the reset input can do when it answers a next state. -/
theorem driveResetPin_cases {level : Bool} {s t : State} (h : driveResetPin level s = .next t) :
    s.abortFaults = false ∧ t = { s.resetCore with resetPin := level } := by
  unfold driveResetPin at h
  split at h
  · cases h
  · next hf => exact ⟨by simpa using hf, by cases h; rfl⟩

theorem memRead_cases {ag : Agent} {a : Word} {s t : State} (h : memRead ag a s = .next t) :
    s.guardedDestination a.toNat = false ∧ t = s.respond (.memData (s.outsideByte ag a.toNat)) := by
  unfold memRead at h
  split at h
  · cases h
  · next hg => exact ⟨by simpa using hg, by cases h; rfl⟩

theorem memWrite_cases {ag : Agent} {a : Word} {v : Byte} {s t : State} (h : memWrite ag a v s = .next t) :
    s.guardedDestination a.toNat = false ∧ s.guardedSource a.toNat = false ∧
    t = ({ s with mem := Memory.write s.mem a.toNat v }.markWrite ag a.toNat).respond .memDone := by
  unfold memWrite at h
  split at h
  · cases h
  · next hg =>
    split at h
    · cases h
    · next hg' => exact ⟨by simpa using hg, by simpa using hg', by cases h; rfl⟩

theorem cacheWriteBack_cases {r : AddrRange} {s t : State} (h : cacheWriteBack r s = .next t) :
    t = { s with dirty := AddrSet.dropRange s.dirty r.base r.len } := by
  unfold cacheWriteBack at h
  split at h
  · cases h
  · split at h
    · cases h
    · cases h; rfl

/-- Each memory command is the shared completion with a result of its own (R114 to R121). -/
theorem exec_memory (i : Instr) (h : Instr.isMemory i = true) :
    ∃ out, ∀ s : State, exec i s = memoryCommand i (Instr.checksLength i) out s := by
  cases i <;> first | exact ⟨_, fun _ => rfl⟩ | cases h

/-- A command that is no memory command answers a next state. -/
theorem exec_plain {i : Instr} (h : Instr.isMemory i = false) (s : State) : ∃ t, exec i s = .next t := by
  cases i <;> first | exact ⟨_, rfl⟩ | cases h

/-- A command without regions touches no memory with side effects. -/
theorem regions_plain {i : Instr} (h : Instr.isMemory i = false) (n : Snap) : regions i n = [] := by
  cases i <;> first | rfl | cases h

/-- The completion of the running command faults exactly when the command accesses memory with side effects (R65). -/
theorem complete_fault_iff (s : State) (f : Fault) :
    complete s = .fault f ↔ f = .deviceRegion ∧ s.accessesDevice = true := by
  unfold complete State.accessesDevice
  cases decode s.snap.cmd with
  | error e => simp
  | ok i =>
    simp only
    cases hm : Instr.isMemory i with
    | false =>
      obtain ⟨t, ht⟩ := exec_plain hm s
      rw [ht, regions_plain hm]
      split <;> simp [touchesDevice]
    | true =>
      obtain ⟨out, hout⟩ := exec_memory i hm
      rw [hout, memoryCommand]
      cases validate i (Instr.checksLength i) s.snap with
      | some e => simp
      | none =>
        cases touchesDevice s.plat (regions i s.snap) with
        | true => simp [eq_comm]
        | false => simp only [Bool.false_eq_true, if_false]; split <;> simp

/-- An abort faults exactly when the running command's completion would (R65; log 13). -/
theorem abortFaults_iff (s : State) :
    s.abortFaults = true ↔ s.phase = .busy ∧ complete s = .fault .deviceRegion := by
  rw [complete_fault_iff, State.abortFaults, Bool.and_eq_true]
  cases hp : s.phase <;> simp [State.busy, hp]

/-- The completion of a command ends with DONE, with ERR, or in a fault: it is one of R120 and R121 (R122). -/
theorem exec_cases {i : Instr} {s t : State} (h : exec i s = .next t) :
    (∃ c x y, (c ≠ .io ∧ t = s.raise c x y ∨ c = .io ∧ t = (s.scramble (regions i s.snap)).raise c x y) ∧
      (c = .dimension ∨ c = .sizeMismatch ∨ c = .range ∨ c = .overlap ∨ c = .io)) ∨
    (∃ f, t = (s.dmaWriteAll (regions i s.snap) f).finishOk) ∨
    (∃ v, (i = .pixRgb2yuv ∨ i = .pixYuv2rgb) ∧ t = { s with pixOut := v }.finishOk) := by
  have hmem : ∀ (j : Instr) (l : Bool) (out : Produce), memoryCommand j l out s = .next t → i = j →
      (∃ c x y, (c ≠ .io ∧ t = s.raise c x y ∨ c = .io ∧ t = (s.scramble (regions i s.snap)).raise c x y) ∧
        (c = .dimension ∨ c = .sizeMismatch ∨ c = .range ∨ c = .overlap ∨ c = .io)) ∨
      (∃ f, t = (s.dmaWriteAll (regions i s.snap) f).finishOk) ∨
      (∃ v, (i = .pixRgb2yuv ∨ i = .pixYuv2rgb) ∧ t = { s with pixOut := v }.finishOk) := by
    intro j l out hj hij
    subst hij
    rcases memoryCommand_cases hj with ⟨e, he, rfl⟩ | ⟨_, a, d, _, rfl⟩ | ⟨_, _, _, rfl⟩
    · left
      refine ⟨e.code, e.arg0, e.arg1, ?_⟩
      rcases validate_some he with ⟨_, rfl⟩ | ⟨_, _, _, rfl⟩ | ⟨_, r, _, _, rfl⟩ | ⟨_, _, a, b, _, rfl⟩ <;> simp
    · left; exact ⟨.io, _, _, .inr ⟨rfl, rfl⟩, by simp⟩
    · right; left; exact ⟨_, rfl⟩
  cases i with
  | nop => right; left; exact ⟨fun _ _ => 0, by cases h; rfl⟩
  | pixRgb2yuv => right; right; exact ⟨_, .inl rfl, by cases h; rfl⟩
  | pixYuv2rgb => right; right; exact ⟨_, .inr rfl, by cases h; rfl⟩
  | encode => exact hmem .encode _ _ h rfl
  | decode => exact hmem .decode _ _ h rfl
  | rgb2yuv => exact hmem .rgb2yuv _ _ h rfl
  | yuv2rgb => exact hmem .yuv2rgb _ _ h rfl
  | subsample => exact hmem .subsample _ _ h rfl
  | upsample => exact hmem .upsample _ _ h rfl
  | pack => exact hmem .pack _ _ h rfl
  | unpack => exact hmem .unpack _ _ h rfl

end Sys2Proof.Machine
end

