-- ==== Sys2Proof/Tests/Slice0.lean ====
section
/-! SUPPORT. The model's own tests, each about one step on a small state, with results from spec/95_test_vectors.md or worked
out by hand from the rules; and for each statement with hypotheses a witness: a concrete state that meets all of them. -/

namespace Sys2Proof.Tests

open Sys2Proof Sys2Proof.Machine

/-! ### Helpers -/

/-- The bytes from address `a` on. -/
def cells (a : Nat) (bs : List Byte) (m : Memory) : Memory :=
  match bs with
  | [] => m
  | b :: rest => cells (a + 1) rest (Memory.write m a b)

/-- A snapshot with dimensions and the first source and destination. -/
def dims (w h : Dim) (src0 dst0 : Word) : Snap := { Snap.zero with w := w, h := h, src0 := src0, dst0 := dst0 }

/-- BUSY with a command word, the engine's turn next. -/
def busyWord (c : Word) (n : Snap) (m : Memory) : State :=
  { State.reset with
    phase := .busy, cmd := c, snap := { n with cmd := c }, mem := m, inputs := [.engine]
    unobserved := [⟨{ n with cmd := c }, 0#24⟩] }

def busy (i : Instr) (n : Snap) (m : Memory) : State := busyWord (encode i) n m

/-- After reset, with one event to come. -/
def idle (e : Event) : State := { State.reset with inputs := [e] }

def isNext (r : Result) : Bool :=
  match r with
  | .next _ => true
  | .fault _ => false
  | .refused _ => false

/-- The next state, if there is one. -/
def after (r : Result) : State :=
  match r with
  | .next t => t
  | .fault _ => State.reset
  | .refused _ => State.reset

theorem eq_next {r : Result} (h : isNext r = true) : r = .next (after r) := by
  cases r <;> first | rfl | cases h

/-- Bytes of memory of the next state. -/
def bytes (r : Result) (a n : Nat) : List Byte := (List.range n).map (fun k => Memory.read (after r).mem (a + k))

/-- STATUS, the error record and the flag that there is a next state. -/
def ending (r : Result) : Bool × Word × Word × Word × Word :=
  (isNext r, (after r).statusWord, (after r).errCodeWord, (after r).errArg0, (after r).errArg1)

def readBack (r : Result) : Option Response := (after r).responses.head?

/-! ### Well-formedness: what the checks refuse (R90, R91, R94, R41) -/

theorem test_wf_reserved_bits : (CmdWord.mk 0#4 1#28).wf = false ∧ (CmdWord.mk 0#4 1#28).resOk = false := by decide
theorem test_wf_reserved_op :
    (CmdWord.mk 0xB#4 0#28).wf = false ∧ (CmdWord.mk 0xB#4 0#28).opOk = false ∧ (CmdWord.mk 0xF#4 0#28).opOk = false ∧
      (CmdWord.mk 0xA#4 0#28).wf = true := by decide
theorem test_wf_csr_access :
    csrAccessOk 0x0C .w32 = true ∧ csrAccessOk 0x0D .w32 = false ∧ csrAccessOk 0x0C .w8 = false ∧
      csrAccessOk 0x08 .w16 = false ∧ csrAccessOk 0x08 .w64 = false := by decide

/-! ### Decoding: the words of the table of R91, the fields res[31:4] and op[3:0] written out -/

theorem test_decode_control : decode (0b0000000000000000000000000000#28 ++ 0b0000#4) = .ok .nop := by decide
theorem test_decode_codec :
    decode (0b0000000000000000000000000000#28 ++ 0b0001#4) = .ok .encode ∧
      decode (0b0000000000000000000000000000#28 ++ 0b0010#4) = .ok .decode := by decide
theorem test_decode_color :
    decode (0b0000000000000000000000000000#28 ++ 0b0011#4) = .ok .rgb2yuv ∧
      decode (0b0000000000000000000000000000#28 ++ 0b0100#4) = .ok .yuv2rgb ∧
      decode (0b0000000000000000000000000000#28 ++ 0b1001#4) = .ok .pixRgb2yuv ∧
      decode (0b0000000000000000000000000000#28 ++ 0b1010#4) = .ok .pixYuv2rgb := by decide
theorem test_decode_chroma :
    decode (0b0000000000000000000000000000#28 ++ 0b0101#4) = .ok .subsample ∧
      decode (0b0000000000000000000000000000#28 ++ 0b0110#4) = .ok .upsample := by decide
theorem test_decode_planes :
    decode (0b0000000000000000000000000000#28 ++ 0b0111#4) = .ok .pack ∧
      decode (0b0000000000000000000000000000#28 ++ 0b1000#4) = .ok .unpack := by decide
theorem test_decode_illegal :
    decode 0x0000000B#32 = .error .reservedOp ∧ decode 0x00000011#32 = .error .reservedBits ∧
      decode 0x80000000#32 = .error .reservedBits ∧ decodeBytes [1#8, 0#8] = .error .notOneWord := by decide
theorem test_decode_bytes : decodeBytes [0x0A#8, 0#8, 0#8, 0#8] = .ok .pixYuv2rgb ∧ decodeTableWord 32 8 = some .unpack := by
  decide
theorem test_encode_words : encode .pack = 0x00000007#32 ∧ encode .pixYuv2rgb = 0x0000000A#32 := by decide

/-- No two rows of the opcode map match one word. -/
theorem test_opcode_rows_apart : opcodeMap.Pairwise (fun a b => a.pattern ≠ b.pattern) := by decide

/-! ### The commands -/

/-- The 2×2 image of P1 at 0x1000. -/
def image : Memory := cells 0x1000 [255, 0, 0, 0, 255, 0, 0, 0, 255, 255, 255, 255] []

/-- The NV12 buffer of V-ENC-2 at 0x2000. -/
def nv12 : Memory := cells 0x2000 [76, 149, 29, 255, 84, 255] []

/-- V-CYC-1. -/
theorem test_nop : ending (step (busy .nop Snap.zero [])) = (true, 2, 0, 0, 0) := by decide

/-- V-ENC-2, with the sentinel after the buffer. -/
theorem test_encode_2x2 :
    bytes (step (busy .encode (dims 2 2 0x1000 0x2000) (Memory.write image 0x2006 0xAA))) 0x2000 7 =
      [76, 149, 29, 255, 84, 255, 0xAA] := by decide

/-- V-ENC-6. -/
theorem test_encode_overlap :
    ending (step (busy .encode (dims 2 2 0x1000 0x100B) [])) = (true, 4, 8, 0, 3) := by decide

/-- V-DEC-2. -/
theorem test_decode_2x2 :
    bytes (step (busy .decode { dims 2 2 0x2000 0x3000 with srcLen := 6 } nv12)) 0x3000 12 =
      [0xFE, 0, 0, 0xFF, 0x49, 0x47, 0xCF, 0, 0, 0xFF, 0xB3, 0xB1] := by decide

/-- V-DEC-4. -/
theorem test_decode_length :
    ending (step (busy .decode { dims 4 4 0x2000 0x3000 with srcLen := 23 } [])) = (true, 4, 2, 24, 23) := by decide

/-- P1's image: the three planes by V-CT-4, V-CT-5, V-CT-6, V-CT-2. -/
theorem test_rgb2yuv_2x2 :
    let r := step (busy .rgb2yuv { dims 2 2 0x1000 0x4000 with dst1 := 0x4100, dst2 := 0x4200 } image)
    bytes r 0x4000 4 = [76, 149, 29, 255] ∧ bytes r 0x4100 4 = [84, 43, 255, 128] ∧
      bytes r 0x4200 4 = [255, 21, 107, 128] := by decide

/-- V-CYC-16. -/
theorem test_rgb2yuv_overlap :
    ending (step (busy .rgb2yuv { dims 2 2 0x1000 0x3000 with dst1 := 0x3002, dst2 := 0x3100 } [])) =
      (true, 4, 8, 3, 4) := by decide

/-- V-CT-23, V-CT-24, V-CT-25, V-CT-27. -/
theorem test_yuv2rgb_2x2 :
    bytes (step (busy .yuv2rgb { dims 2 2 0x1000 0x4000 with src1 := 0x1100, src2 := 0x1200 }
      (cells 0x1000 [76, 149, 29, 255] (cells 0x1100 [84, 43, 255, 255] (cells 0x1200 [255, 21, 107, 255] []))))) 0x4000 12 =
      [254, 0, 0, 0, 254, 0, 0, 0, 254, 255, 120, 255] := by decide

/-- V-CS-6. -/
theorem test_subsample_6x2 :
    bytes (step (busy .subsample (dims 6 2 0x1000 0x2000)
      (cells 0x1000 [10, 11, 12, 13, 14, 15, 20, 21, 22, 23, 24, 25] []))) 0x2000 4 = [10, 12, 14, 0] := by decide

/-- V-CS-9. -/
theorem test_subsample_odd : ending (step (busy .subsample (dims 4 3 0x1000 0x2000) [])) = (true, 4, 1, 4, 3) := by decide

/-- V-CS-2. -/
theorem test_upsample_4x4 :
    bytes (step (busy .upsample (dims 4 4 0x1000 0x2000) (cells 0x1000 [0, 2, 8, 10] []))) 0x2000 16 =
      [0, 0, 2, 2, 0, 0, 2, 2, 8, 8, 10, 10, 8, 8, 10, 10] := by decide

/-- V-PK-2. -/
theorem test_pack_4x2 :
    bytes (step (busy .pack { dims 4 2 0x1000 0x2000 with src1 := 0x1100, src2 := 0x1200 }
      (cells 0x1000 [0, 1, 2, 3, 4, 5, 6, 7] (cells 0x1100 [20, 21] (cells 0x1200 [30, 31] []))))) 0x2000 12 =
      [0, 1, 2, 3, 4, 5, 6, 7, 20, 30, 21, 31] := by decide

/-- V-PK-7. -/
theorem test_pack_shared_source :
    bytes (step (busy .pack { dims 2 2 0x1000 0x2000 with src1 := 0x1100, src2 := 0x1100 }
      (cells 0x1000 [1, 2, 3, 4] (cells 0x1100 [9] [])))) 0x2000 6 = [1, 2, 3, 4, 9, 9] := by decide

/-- V-PK-5. -/
theorem test_unpack_4x2 :
    let r := step (busy .unpack { dims 4 2 0x1000 0x2000 with dst1 := 0x2100, dst2 := 0x2200, srcLen := 12 }
      (cells 0x1000 [0, 1, 2, 3, 4, 5, 6, 7, 20, 30, 21, 31] []))
    bytes r 0x2000 8 = [0, 1, 2, 3, 4, 5, 6, 7] ∧ bytes r 0x2100 2 = [20, 21] ∧ bytes r 0x2200 2 = [30, 31] := by decide

/-- V-PK-6. -/
theorem test_unpack_length :
    ending (step (busy .unpack { dims 4 2 0x1000 0x2000 with dst1 := 0x2100, dst2 := 0x2200, srcLen := 11 } [])) =
      (true, 4, 2, 12, 11) := by decide

/-- V-PIX-3, and V-PIX-4 under both arithmetics. -/
theorem test_pix_rgb2yuv :
    (after (step (busy .pixRgb2yuv { Snap.zero with pixIn := 0x3264C8 } []))).pixOut = 0xB6567C ∧
      (after (step (busy .pixRgb2yuv { Snap.zero with pixIn := 0x205008 } []))).pixOut = 0x5F7434 ∧
      (after (step { busy .pixRgb2yuv { Snap.zero with pixIn := 0x205008 } [] with
        plat := { Platform.standard with colorArith := .exact } })).pixOut = 0x5F7435 := by decide

/-- V-PIX-2, and V-PIX-5 under both arithmetics. -/
theorem test_pix_yuv2rgb :
    (after (step (busy .pixYuv2rgb { Snap.zero with pixIn := 0xFF544C } []))).pixOut = 0x0000FE ∧
      (after (step (busy .pixYuv2rgb { Snap.zero with pixIn := 0x1CE400 } []))).pixOut = 0xB12400 ∧
      (after (step { busy .pixYuv2rgb { Snap.zero with pixIn := 0x1CE400 } [] with
        plat := { Platform.standard with colorArith := .exact } })).pixOut = 0xB12500 := by decide

/-! ### Errors -/

/-- V-CYC-3. -/
theorem test_illegal_word : ending (step (busyWord 0x11 (dims 3 2 0 0) [])) = (true, 4, 6, 0x11, 0) := by decide

/-- V-ENC-8 and V-ENC-9: 2^32 is not passed by a region that ends there. -/
theorem test_range :
    ending (step (busy .encode (dims 2 2 0x1000 0xFFFFFFFC) [])) = (true, 4, 7, 0xFFFFFFFC, 6) ∧
      ending (step (busy .encode (dims 2 2 0x1000 0xFFFFFFFA) [])) = (true, 2, 0, 0, 0) := by decide

/-- V-ENC-10. -/
theorem test_io :
    ending (step { busy .encode (dims 2 2 0x1000 0x2000) image with
      plat := { Platform.standard with busFaults := [⟨⟨0x2003, 1⟩, .write⟩] } }) = (true, 4, 5, 0x2003, 1) := by decide

/-- V-DEC-8: the largest expected size. -/
theorem test_largest_size :
    ending (step (busy .decode (dims 32766 32766 0 0) [])) = (true, 4, 2, 1610416134, 0) := by decide

/-! ### The command cycle and the CSRs -/

/-- V-CYC-5: the second write is dropped and the first command's word stays in CMD. -/
theorem test_drop :
    let t := after (step { busy .encode (dims 2 2 0 0x100) [] with inputs := [.csrWrite 0x10 .w32 0] })
    t.csrValue .status = 9 ∧ t.csrValue .cmd = 1 := by decide

/-- V-CYC-7. -/
theorem test_width_reserved_bit :
    (after (step (idle (.csrWrite 0x20 .w32 0x00008002)))).csrValue .width = 2 := by decide

/-- V-CYC-10. -/
theorem test_drop_is_no_interrupt : ({ State.reset with irqEn := true, drop := true } : State).irq = false := by decide

/-- V-CYC-12; and the bytes of ID are N, V, 1, 2 at rising addresses (R21, R61). -/
theorem test_id_version :
    readBack (step (idle (.csrRead 0 .w32))) = some (.readData 0x3231564E) ∧
      readBack (step (idle (.csrRead 4 .w32))) = some (.readData 1) ∧
      readBack (step (idle (.csrRead 0x2C .w32))) = some (.readData 0) ∧
      readBack (step (idle (.csrRead 0xFC .w32))) = some (.readData 0) ∧
      (List.range 4).map (csrByte idValue) = [0x4E, 0x56, 0x31, 0x32] := by decide

/-- V-CYC-15. -/
theorem test_narrow_read : readBack (step (idle (.csrRead 0x0C .w8))) = some (.readError 0) := by decide

/-- V-CYC-11. -/
theorem test_soft_reset :
    let t := after (step { busy .nop (dims 2 2 0 0) [] with inputs := [.csrWrite 0x08 .w32 3], width := 5, irqEn := true })
    t.csrValue .width = 0 ∧ t.csrValue .ctrl = 0 ∧ t.csrValue .status = 0 ∧ t.phase = .idle := by decide

/-- R97: `dim 2, 2` and `run NOP`, expanded. -/
theorem test_host_forms :
    opDim Platform.standard 2 2 ++ opRun Platform.standard .nop 0 =
      [.csrWrite 0x20 .w32 2, .csrWrite 0x24 .w32 2, .csrWrite 0x10 .w32 0, .engine, .csrRead 0x0C .w32] := by decide

/-- The interface's word is run by the very next step. -/
theorem test_fetch_word :
    ending (step (State.reset.withFetchWord 32 1)) = (true, 2, 0, 0, 0) ∧
      (State.reset.withFetchWord 32 1).snap.cmd = encode .encode ∧
      ending (step (State.reset.withFetchWord 32 0xB)) = (true, 4, 6, 0xB, 0) := by decide

theorem test_reset_memory : Memory.wf State.reset.mem = true ∧ State.reset.final = true := by decide

/-! ### Witnesses: for each statement with hypotheses, a concrete state and operands that meet all of them -/

/-- The conditions of `BuffersUsable` on a platform without bus errors and devices, as a check. -/
def rangesOk (srcs dsts : List AddrRange) : Bool :=
  let far (a b : AddrRange) : Bool :=
    decide (a.len = 0) || decide (b.len = 0) || decide (a.base + a.len ≤ b.base) || decide (b.base + b.len ≤ a.base)
  (srcs ++ dsts).all (fun r => decide (r.base + r.len ≤ memSize)) &&
    srcs.all (fun a => dsts.all (far a)) && decide (dsts.Pairwise (fun a b => far a b = true))

theorem usable {srcs dsts : List AddrRange} (h : rangesOk srcs dsts = true) :
    BuffersUsable Platform.standard srcs dsts := by
  simp only [rangesOk, Bool.and_eq_true, List.all_eq_true, decide_eq_true_eq, List.mem_append, Bool.or_eq_true] at h
  obtain ⟨⟨hf, hs⟩, hd⟩ := h
  refine ⟨fun r hr => hf r (.inl hr), fun r hr => hf r (.inr hr), fun a ha b hb => ?_, hd.imp fun hab => ?_, ?_, ?_⟩
  · have := hs a ha b hb; unfold AddrRange.apart; tauto
  · unfold AddrRange.apart; tauto
  · intro r _ a _ _; exact ⟨rfl, rfl⟩
  · intro r _ a _ _; exact ⟨rfl, rfl⟩

/-- The regions of a command are apart, as a check. -/
def apartRegions (i : Instr) (n : Snap) : Bool :=
  decide ((regions i n).Pairwise (fun a b => b.slot.isDst = true → Region.overlaps a b = false))

theorem apart_regions {i : Instr} {n : Snap} (h : apartRegions i n = true) :
    (regions i n).Pairwise (fun a b => b.slot.isDst = true →
      AddrRange.apart ⟨a.base.toNat, a.len⟩ ⟨b.base.toNat, b.len⟩) := by
  refine (of_decide_eq_true h).imp fun hab hb => ?_
  have := hab hb
  simp only [Region.overlaps, ← Bool.not_eq_true, Bool.and_eq_true, decide_eq_true_eq] at this
  unfold AddrRange.apart
  simp only
  omega

def event (e : Event) (s : State) : State := { s with inputs := [e] }

/-- A busy state of a run: P1's command, accepted. -/
def running : State := busy .encode (dims 2 2 0x1000 0x2000) image

theorem running_inv : running.Inv := by
  refine ⟨?_, rfl, rfl, fun _ => ⟨rfl, rfl⟩, ?_, fun _ => ⟨rfl, rfl, rfl, rfl, rfl, _, List.mem_singleton.mpr rfl, rfl⟩, ?_, ?_, fun _ => ⟨rfl, rfl⟩, ?_, ?_⟩ <;>
    decide

theorem reset_state_inv : State.reset.Inv := by
  refine ⟨rfl, rfl, rfl, fun _ => ⟨rfl, rfl⟩, ?_, ?_, ?_, ?_, fun _ => ⟨rfl, rfl⟩, ?_, ?_⟩ <;> decide

theorem witness_CommandBytesDecodeAsTheirWord : ([1#8, 0#8, 0#8] : List Byte).length ≠ 4 ∧ [1#8, 0#8, 0#8, 0#8, 0#8].length ≠ 4 := by
  decide

theorem witness_StepRunsTheDecodedCommand :
    (running.phase = .busy ∧ running.inputs.head? = some .engine ∧ decode running.snap.cmd = .ok .encode) ∧
      ({ running with inputs := [] } : State).inputs = [] := by decide

theorem witness_IllegalWordEndsWithIllegalCmd :
    (busyWord 11 Snap.zero []).phase = .busy ∧ (busyWord 11 Snap.zero []).inputs.head? = some .engine ∧
      ∀ i, (busyWord 11 Snap.zero []).snap.cmd ≠ encode i := by
  refine ⟨rfl, rfl, fun i => ?_⟩; cases i <;> decide

theorem witness_IdleEngineTakesNoStep :
    (State.reset.phase = .idle ∧ State.reset.inputs = []) ∧ (idle .engine).phase = .idle ∧ (idle .engine).inputs = [.engine] := by
  decide

theorem witness_CmdWriteWhileIdleIsAccepted :
    (idle (.csrWrite 0x10 .w32 1)).phase = .idle ∧ (idle (.csrWrite 0x10 .w32 1)).resetPin = false ∧
      (idle (.csrWrite 0x10 .w32 1)).inputs = [.csrWrite (State.reset.plat.csrBase + 0x10) .w32 1] := by decide

theorem witness_CmdWriteWhileBusyOnlySetsDrop :
    (event (.csrWrite 0x10 .w32 0) running).phase = .busy ∧ (event (.csrWrite 0x10 .w32 0) running).resetPin = false ∧
      (event (.csrWrite 0x10 .w32 0) running).inputs = [.csrWrite (running.plat.csrBase + 0x10) .w32 0] := by decide

theorem witness_CommandsEndIdleAndLeaveTheOtherRegisters :
    exec .encode running = .next (after (exec .encode running)) ∧
      exec .encode (busy .encode (dims 1 2 0 0) []) = .next (after (exec .encode (busy .encode (dims 1 2 0 0) []))) :=
  ⟨eq_next (by decide), eq_next (by decide)⟩

theorem witness_OddDimensionsEndWithDimension :
    (Instr.isMemory .pack = true ∧ (dims 32767 2 0 0).w.toNat % 2 = 1) ∧ (dims 0 1 0 0).h.toNat % 2 = 1 ∧
      Instr.isMemory .nop = false ∧ ((dims 32766 0 0 0).w.toNat % 2 = 0 ∧ (dims 32766 0 0 0).h.toNat % 2 = 0) ∧
      (let s := { busy .encode (dims 2 2 0 12) [] with errCode := .dimension }
       exec .encode s = .next (after (exec .encode s)) ∧ (after (exec .encode s)).errCode = .dimension) :=
  ⟨by decide, by decide, by decide, by decide, eq_next (by decide), by decide⟩

/-- One clause with a length off by one, one with the right length, one with a command that ignores it. -/
theorem witness_WrongSourceLengthEndsWithSizeMismatch :
    (let n := { dims 2 2 0 0x100 with srcLen := 7 }; n.w.toNat % 2 = 0 ∧ n.h.toNat % 2 = 0 ∧ n.srcLen.toNat ≠ n.w.toNat * n.h.toNat * 3 / 2) ∧
      (let s := { busy .unpack { dims 2 2 0 0x100 with srcLen := 6, dst1 := 0x200, dst2 := 0x300 } [] with errCode := .sizeMismatch }
       s.snap.srcLen.toNat = s.snap.w.toNat * s.snap.h.toNat * 3 / 2 ∧ exec .unpack s = .next (after (exec .unpack s)) ∧
         (after (exec .unpack s)).errCode = .sizeMismatch) ∧
      Instr.nop ≠ .decode ∧ Instr.nop ≠ .unpack :=
  ⟨by decide, ⟨by decide, eq_next (by decide), by decide⟩, by decide, by decide⟩

/-- The second clause of the same: a region that ends at 2^32 exactly (V-ENC-9). -/
theorem witness_NoRegionPastTheEnd :
    let s := { busy .encode (dims 2 2 0x1000 0xFFFFFFFA) [] with errCode := .range }
    (∀ q ∈ regions .encode s.snap, q.len = 0 ∨ q.base.toNat + q.len ≤ 2 ^ 32) ∧
      exec .encode s = .next (after (exec .encode s)) ∧ (after (exec .encode s)).errCode = .range :=
  ⟨by decide, eq_next (by decide), by decide⟩

/-- V-ENC-8, with a first region that ends at 2^32 exactly. -/
theorem witness_FirstRegionPastTheEndEndsWithRange :
    let n := dims 2 2 0xFFFFFFF4 0xFFFFFFFB
    Instr.isMemory .encode = true ∧ n.w.toNat % 2 = 0 ∧ n.h.toNat % 2 = 0 ∧ Instr.checksLength .encode = false ∧
      regions .encode n = [⟨.src0, 0xFFFFFFF4, 12⟩] ++ ⟨.dst0, 0xFFFFFFFB, 6⟩ :: [] ∧
      (∀ q ∈ [(⟨.src0, 0xFFFFFFF4, 12⟩ : Region)], q.base.toNat + q.len ≤ 2 ^ 32) ∧
      2 ^ 32 < (⟨.dst0, 0xFFFFFFFB, 6⟩ : Region).base.toNat + (⟨.dst0, 0xFFFFFFFB, 6⟩ : Region).len := by decide

/-- V-CYC-16, with DST0 and DST1 overlapping in one byte: the source region comes first and overlaps nothing. -/
theorem witness_FirstOverlapEndsWithOverlap :
    let n := { dims 2 2 0x1000 0x3000 with dst1 := 0x3003, dst2 := 0x3100 }
    let a : Region := ⟨.dst0, 0x3000, 4⟩
    let b : Region := ⟨.dst1, 0x3003, 4⟩
    let pre : List Region := [⟨.src0, 0x1000, 12⟩]
    n.w.toNat % 2 = 0 ∧ n.h.toNat % 2 = 0 ∧ (∀ q ∈ regions .rgb2yuv n, q.base.toNat + q.len ≤ 2 ^ 32) ∧
      regions .rgb2yuv n = pre ++ a :: [] ++ b :: [⟨.dst2, 0x3100, 4⟩] ∧ b.slot.isDst = true ∧
      (0 < a.len ∧ 0 < b.len ∧ a.base.toNat < b.base.toNat + b.len ∧ b.base.toNat < a.base.toNat + a.len) ∧
      (∀ x y pre' mid' post', regions .rgb2yuv n = pre' ++ x :: mid' ++ y :: post' → pre'.length < pre.length →
        y.slot.isDst = true → AddrRange.apart ⟨x.base.toNat, x.len⟩ ⟨y.base.toNat, y.len⟩) := by
  intro n a b pre
  refine ⟨by decide, by decide, by decide, by decide, by decide, by decide, ?_⟩
  intro x y pre' mid' post' h hl _
  have hpre : pre' = [] := by cases pre' with
    | nil => rfl
    | cons _ _ => simp [pre] at hl
  subst hpre
  have hr : regions .rgb2yuv n = [⟨.src0, 0x1000, 12⟩, a, b, ⟨.dst2, 0x3100, 4⟩] := by decide
  rw [hr] at h
  simp only [List.nil_append, List.cons_append, List.cons.injEq] at h
  obtain ⟨rfl, h⟩ := h
  have hy : y ∈ [a, b, (⟨.dst2, 0x3100, 4⟩ : Region)] := by rw [h]; simp
  simp only [List.mem_cons, List.not_mem_nil, or_false] at hy
  rcases hy with rfl | rfl | rfl <;> right <;> right <;> left <;> decide

/-- The second clause: three source planes that are one. -/
theorem witness_NoOverlap :
    let s := { busy .yuv2rgb { dims 2 2 0x1000 0x1004 with src1 := 0x1000, src2 := 0x1000 } [] with errCode := .overlap }
    (regions .yuv2rgb s.snap).Pairwise (fun a b => b.slot.isDst = true →
        AddrRange.apart ⟨a.base.toNat, a.len⟩ ⟨b.base.toNat, b.len⟩) ∧
      exec .yuv2rgb s = .next (after (exec .yuv2rgb s)) ∧ (after (exec .yuv2rgb s)).errCode = .overlap :=
  ⟨apart_regions (by decide), eq_next (by decide), by decide⟩

/-- V-ENC-10, the bus error at the last byte of the destination. -/
def faulty : State :=
  { busy .encode (dims 2 2 0x1000 0x2000) image with
    plat := { Platform.standard with busFaults := [⟨⟨0x2005, 1⟩, .write⟩] } }

theorem witness_BusErrorEndsWithIo :
    faulty.snap.w.toNat % 2 = 0 ∧ faulty.snap.h.toNat % 2 = 0 ∧
      (∀ r ∈ regions .encode faulty.snap, r.base.toNat + r.len ≤ 2 ^ 32) ∧
      (regions .encode faulty.snap).Pairwise (fun a b => b.slot.isDst = true →
        AddrRange.apart ⟨a.base.toNat, a.len⟩ ⟨b.base.toNat, b.len⟩) ∧
      (∀ r ∈ regions .encode faulty.snap, ∀ a, Region.has r a = true → isDevice faulty.plat a = false) ∧
      (∃ r ∈ regions .encode faulty.snap, ∃ a, Region.has r a = true ∧ busOk faulty.plat a r.dir = false) :=
  ⟨by decide, by decide, by decide, apart_regions (by decide), fun _ _ _ _ => rfl, ⟨.dst0, 0x2000, 6⟩, by decide, 0x2005, by decide⟩

theorem witness_ErrorsButIoLeaveMemory :
    let s := busy .encode (dims 3 2 0x1000 0x2000) image
    s.err = false ∧ s.errCode = .none ∧ exec .encode s = .next (after (exec .encode s)) ∧
      (after (exec .encode s)).err = true ∧ (after (exec .encode s)).errCode ≠ .io :=
  ⟨rfl, rfl, eq_next (by decide), by decide, by decide⟩

theorem witness_SideEffectMemoryFaultsTheRun :
    let s := { running with plat := { Platform.standard with devices := [⟨0x100B, 1⟩] } }
    Instr.isMemory .encode = true ∧ s.snap.w.toNat % 2 = 0 ∧ s.snap.h.toNat % 2 = 0 ∧
      (∀ r ∈ regions .encode s.snap, r.base.toNat + r.len ≤ 2 ^ 32) ∧
      (regions .encode s.snap).Pairwise (fun a b => b.slot.isDst = true →
        AddrRange.apart ⟨a.base.toNat, a.len⟩ ⟨b.base.toNat, b.len⟩) ∧
      (∃ r ∈ regions .encode s.snap, ∃ a, Region.has r a = true ∧ isDevice s.plat a = true) ∧
      exec .encode s = .fault .deviceRegion :=
  ⟨by decide, by decide, by decide, by decide, apart_regions (by decide), ⟨⟨.src0, 0x1000, 12⟩, by decide, 0x100B, by decide⟩, rfl⟩

/-- `running` with the last byte of its source region in memory with side effects. -/
def onDevice (e : Event) : State :=
  { event e running with plat := { Platform.standard with devices := [⟨0x100B, 1⟩] } }

/-- Its second half: both kinds of reset, of a command on a device and of one that is not. -/
theorem witness_ResetOfACommandOnADeviceFaultsTheRun :
    (decode (onDevice (.resetPin true)).snap.cmd = .ok .encode ∧ (onDevice (.resetPin true)).inputs = [.resetPin true] ∧
      (onDevice (.resetPin true)).phase = .busy ∧ exec .encode (onDevice (.resetPin true)) = .fault .deviceRegion ∧
      step (onDevice (.resetPin true)) = .fault .deviceRegion) ∧
    ((onDevice (.csrWrite 0x08 .w32 2)).resetPin = false ∧ (2#32).getLsbD 1 = true ∧
      (onDevice (.csrWrite 0x08 .w32 2)).inputs = [.csrWrite (running.plat.csrBase + 0x08) .w32 2] ∧
      step (onDevice (.csrWrite 0x08 .w32 2)) = .fault .deviceRegion) ∧
    (exec .encode (event (.resetPin true) running) = .next (after (exec .encode (event (.resetPin true) running))) ∧
      step (event (.resetPin true) running) = .next (after (step (event (.resetPin true) running)))) :=
  ⟨⟨by decide, rfl, rfl, rfl, rfl⟩, ⟨rfl, by decide, by decide, rfl⟩, eq_next (by decide), eq_next (by decide)⟩

/-! The buffers of each memory command: a 2×2 image, adjacent to the next buffer or up to 2^32. -/

theorem witness_Rgb2yuvWritesThreePlanes :
    let s := busy .rgb2yuv { dims 2 2 0x1000 0x100C with dst1 := 0x1010, dst2 := 0xFFFFFFFC } image
    Memory.wf s.mem = true ∧ 2 = s.snap.w.toNat ∧ 2 = s.snap.h.toNat ∧ 2 % 2 = 0 ∧
      BuffersUsable s.plat [⟨s.snap.src0.toNat, 3 * (2 * 2)⟩]
        [⟨s.snap.dst0.toNat, 2 * 2⟩, ⟨s.snap.dst1.toNat, 2 * 2⟩, ⟨s.snap.dst2.toNat, 2 * 2⟩] :=
  ⟨by decide, rfl, rfl, rfl, usable (by decide)⟩

/-- The three source planes are one. -/
theorem witness_Yuv2rgbWritesTheImage :
    let s := busy .yuv2rgb { dims 2 2 0x1000 0x1004 with src1 := 0x1000, src2 := 0x1000 } image
    Memory.wf s.mem = true ∧ 2 = s.snap.w.toNat ∧ 2 = s.snap.h.toNat ∧ 2 % 2 = 0 ∧
      BuffersUsable s.plat [⟨s.snap.src0.toNat, 2 * 2⟩, ⟨s.snap.src1.toNat, 2 * 2⟩, ⟨s.snap.src2.toNat, 2 * 2⟩]
        [⟨s.snap.dst0.toNat, 3 * (2 * 2)⟩] :=
  ⟨by decide, rfl, rfl, rfl, usable (by decide)⟩

theorem witness_SubsampleTakesTheTopLeftSamples :
    let s := busy .subsample (dims 2 2 0x1000 0xFFFFFFFF) image
    Memory.wf s.mem = true ∧ 2 = s.snap.w.toNat ∧ 2 = s.snap.h.toNat ∧ 2 % 2 = 0 ∧
      BuffersUsable s.plat [⟨s.snap.src0.toNat, 2 * 2⟩]
        [⟨s.snap.dst0.toNat, 2 * 2 / 4⟩] :=
  ⟨by decide, rfl, rfl, rfl, usable (by decide)⟩

theorem witness_UpsampleRepeatsEachSample :
    let s := busy .upsample (dims 2 2 0x1000 0x1001) image
    Memory.wf s.mem = true ∧ 2 = s.snap.w.toNat ∧ 2 = s.snap.h.toNat ∧ 2 % 2 = 0 ∧
      BuffersUsable s.plat [⟨s.snap.src0.toNat, 2 * 2 / 4⟩]
        [⟨s.snap.dst0.toNat, 2 * 2⟩] :=
  ⟨by decide, rfl, rfl, rfl, usable (by decide)⟩

theorem witness_PackInterleavesThePlanes :
    let s := busy .pack { dims 2 2 0x1000 0x1005 with src1 := 0x1000, src2 := 0x1004 } image
    Memory.wf s.mem = true ∧ 2 = s.snap.w.toNat ∧ 2 = s.snap.h.toNat ∧ 2 % 2 = 0 ∧
      BuffersUsable s.plat [⟨s.snap.src0.toNat, 2 * 2⟩, ⟨s.snap.src1.toNat, 2 * 2 / 4⟩, ⟨s.snap.src2.toNat, 2 * 2 / 4⟩]
        [⟨s.snap.dst0.toNat, 3 * (2 * 2) / 2⟩] :=
  ⟨by decide, rfl, rfl, rfl, usable (by decide)⟩

theorem witness_EncodeWritesNv12 :
    let s := busy .encode (dims 2 2 0x1000 0x100C) image
    Memory.wf s.mem = true ∧ 2 = s.snap.w.toNat ∧ 2 = s.snap.h.toNat ∧ 2 % 2 = 0 ∧
      BuffersUsable s.plat [⟨s.snap.src0.toNat, 3 * (2 * 2)⟩]
        [⟨s.snap.dst0.toNat, 3 * (2 * 2) / 2⟩] :=
  ⟨by decide, rfl, rfl, rfl, usable (by decide)⟩

theorem witness_UnpackSeparatesThePlanes :
    let s := busy .unpack { dims 2 2 0x2000 0x1FFC with dst1 := 0x2006, dst2 := 0x2007, srcLen := 6 } nv12
    Memory.wf s.mem = true ∧ 2 = s.snap.w.toNat ∧ 2 = s.snap.h.toNat ∧ 2 % 2 = 0 ∧ s.snap.srcLen.toNat = 2 * 2 * 3 / 2 ∧
      BuffersUsable s.plat [⟨s.snap.src0.toNat, 3 * (2 * 2) / 2⟩]
        [⟨s.snap.dst0.toNat, 2 * 2⟩, ⟨s.snap.dst1.toNat, 2 * 2 / 4⟩, ⟨s.snap.dst2.toNat, 2 * 2 / 4⟩] :=
  ⟨by decide, rfl, rfl, rfl, rfl, usable (by decide)⟩

theorem witness_DecodeWritesTheImage :
    let s := busy .decode { dims 2 2 0x2000 0xFFFFFFF4 with srcLen := 6 } nv12
    Memory.wf s.mem = true ∧ 2 = s.snap.w.toNat ∧ 2 = s.snap.h.toNat ∧ 2 % 2 = 0 ∧ s.snap.srcLen.toNat = 2 * 2 * 3 / 2 ∧
      BuffersUsable s.plat [⟨s.snap.src0.toNat, 3 * (2 * 2) / 2⟩]
        [⟨s.snap.dst0.toNat, 3 * (2 * 2)⟩] :=
  ⟨by decide, rfl, rfl, rfl, rfl, usable (by decide)⟩

theorem witness_EmptyImageCompletesWithoutAccess :
    Instr.isMemory .decode = true ∧ ((dims 0 32766 0 0).w.toNat = 0 ∧ (dims 0 32766 0 0).h.toNat % 2 = 0) ∧
      ((dims 2 0 0 0).h.toNat = 0 ∧ (dims 2 0 0 0).w.toNat % 2 = 0) ∧ (dims 0 32766 0 0).srcLen = 0#32 ∧
      Instr.checksLength .decode = true ∧ ({ dims 0 0 0 0 with srcLen := 5 } : Snap).srcLen ≠ 0#32 := by decide

/-- Two memories that differ outside the source region. -/
theorem witness_OutcomeDependsOnlyOnTheSourceRegions :
    let s := running
    let s' := { running with mem := Memory.write image 0x2006 0xAA, drop := true }
    Memory.wf s.mem = true ∧ Memory.wf s'.mem = true ∧ s'.snap = s.snap ∧ s'.plat = s.plat ∧ s'.draws = s.draws ∧
      s'.done = s.done ∧ s.err = false ∧ s'.err = false ∧ s'.errCode = s.errCode ∧ s'.errArg0 = s.errArg0 ∧
      s'.errArg1 = s.errArg1 ∧ s'.pixOut = s.pixOut ∧
      (∀ r ∈ regions .encode s.snap, r.slot.isDst = false → ∀ k < r.len, s'.sourceByte r.slot k = s.sourceByte r.slot k) ∧
      exec .encode s = .next (after (exec .encode s)) ∧ (after (exec .encode s)).err = false := by
  refine ⟨by decide, by decide, rfl, rfl, rfl, rfl, rfl, rfl, rfl, rfl, rfl, rfl, by decide, eq_next (by decide), by decide⟩

/-- A block-constant 2×2 plane, and one that is not. -/
theorem witness_UpsampleUndoesSubsampleOnBlockConstantPlanes :
    2 % 2 = 0 ∧ (∀ y < 2, ∀ x < 2, upsample (subsample (fun _ _ => 5#8)) y x = 5#8) ∧
      upsample (subsample (fun y x => BitVec.ofNat 8 (y + x))) 1 1 ≠ 2#8 := by decide

theorem witness_PackAndUnpackAreInverse : 2 % 2 = 0 ∧ 5 < 2 * 2 * 3 / 2 ∧ 1 < 2 ∧ 0 < 2 / 2 := by decide

/-! The stages of ENCODE and DECODE on a 2×2 image. -/

def encStage0 : State := running
def encStage1 : State :=
  after (exec .rgb2yuv { encStage0 with snap := { encStage0.snap with dst0 := 0x3000, dst1 := 0x3100, dst2 := 0x3200 } })
def encStage2 : State := after (exec .subsample { encStage1 with snap := { encStage0.snap with src0 := 0x3100, dst0 := 0x3300 } })
def encStage3 : State := after (exec .subsample { encStage2 with snap := { encStage0.snap with src0 := 0x3200, dst0 := 0x3301 } })

theorem witness_EncodeEqualsItsStages :
    Memory.wf encStage0.mem = true ∧ encStage0.dirty = [] ∧
      2 = encStage0.snap.w.toNat ∧ 2 = encStage0.snap.h.toNat ∧
      BuffersUsable Platform.standard [⟨0x1000, 12⟩] [⟨0x2000, 6⟩] ∧
      BuffersUsable Platform.standard [⟨0x1000, 12⟩] [⟨0x3000, 4⟩, ⟨0x3100, 4⟩, ⟨0x3200, 4⟩] ∧
      BuffersUsable Platform.standard [⟨0x3100, 4⟩, ⟨0x3200, 4⟩, ⟨0x3000, 4⟩] [⟨0x3300, 1⟩, ⟨0x3301, 1⟩] ∧
      BuffersUsable Platform.standard [⟨0x3000, 4⟩, ⟨0x3300, 1⟩, ⟨0x3301, 1⟩] [⟨0x2000, 6⟩] ∧
      (∃ t, exec .encode encStage0 = .next t) ∧
      exec .rgb2yuv { encStage0 with snap := { encStage0.snap with dst0 := 0x3000, dst1 := 0x3100, dst2 := 0x3200 } } =
        .next encStage1 ∧
      exec .subsample { encStage1 with snap := { encStage0.snap with src0 := 0x3100, dst0 := 0x3300 } } = .next encStage2 ∧
      exec .subsample { encStage2 with snap := { encStage0.snap with src0 := 0x3200, dst0 := 0x3301 } } = .next encStage3 ∧
      (∃ t, exec .pack { encStage3 with
        snap := { encStage0.snap with src0 := 0x3000, src1 := 0x3300, src2 := 0x3301 } } = .next t) :=
  ⟨by decide, rfl, rfl, rfl, usable (by decide), usable (by decide), usable (by decide), usable (by decide),
    ⟨_, eq_next (by decide)⟩, eq_next (by decide), eq_next (by decide), eq_next (by decide), _, eq_next (by decide)⟩

def decStage0 : State := busy .decode { dims 2 2 0x2000 0x4000 with srcLen := 6 } nv12
def decStage1 : State :=
  after (exec .unpack { decStage0 with snap := { decStage0.snap with dst0 := 0x3000, dst1 := 0x3300, dst2 := 0x3301 } })
def decStage2 : State := after (exec .upsample { decStage1 with snap := { decStage0.snap with src0 := 0x3300, dst0 := 0x3100 } })
def decStage3 : State := after (exec .upsample { decStage2 with snap := { decStage0.snap with src0 := 0x3301, dst0 := 0x3200 } })

theorem witness_DecodeEqualsItsStages :
    Memory.wf decStage0.mem = true ∧ decStage0.dirty = [] ∧
      2 = decStage0.snap.w.toNat ∧ 2 = decStage0.snap.h.toNat ∧ decStage0.snap.srcLen.toNat = 2 * 2 * 3 / 2 ∧
      BuffersUsable Platform.standard [⟨0x2000, 6⟩] [⟨0x4000, 12⟩] ∧
      BuffersUsable Platform.standard [⟨0x2000, 6⟩] [⟨0x3000, 4⟩, ⟨0x3300, 1⟩, ⟨0x3301, 1⟩] ∧
      BuffersUsable Platform.standard [⟨0x3300, 1⟩, ⟨0x3301, 1⟩, ⟨0x3000, 4⟩] [⟨0x3100, 4⟩, ⟨0x3200, 4⟩] ∧
      BuffersUsable Platform.standard [⟨0x3000, 4⟩, ⟨0x3100, 4⟩, ⟨0x3200, 4⟩] [⟨0x4000, 12⟩] ∧
      (∃ t, exec .decode decStage0 = .next t) ∧
      exec .unpack { decStage0 with snap := { decStage0.snap with dst0 := 0x3000, dst1 := 0x3300, dst2 := 0x3301 } } =
        .next decStage1 ∧
      exec .upsample { decStage1 with snap := { decStage0.snap with src0 := 0x3300, dst0 := 0x3100 } } = .next decStage2 ∧
      exec .upsample { decStage2 with snap := { decStage0.snap with src0 := 0x3301, dst0 := 0x3200 } } = .next decStage3 ∧
      (∃ t, exec .yuv2rgb { decStage3 with
        snap := { decStage0.snap with src0 := 0x3000, src1 := 0x3100, src2 := 0x3200 } } = .next t) :=
  ⟨by decide, rfl, rfl, rfl, rfl, usable (by decide), usable (by decide), usable (by decide), usable (by decide),
    ⟨_, eq_next (by decide)⟩, eq_next (by decide), eq_next (by decide), eq_next (by decide), _, eq_next (by decide)⟩

/-! Colour. -/

theorem witness_RoundingIsToANearestBinary32Value : 0 < 3 ∧ (16777215 : Int).natAbs < 2 ^ 24 := by decide

theorem witness_TransformsOfBothArithmetics :
    (Platform.standard.colorArith = .f32Ltr ∧ Platform.standard.coeffs = Coeffs.document) ∧
      ({ Platform.standard with colorArith := .exact } : Platform).coeffs = Coeffs.document := ⟨⟨rfl, rfl⟩, rfl⟩

theorem witness_NeutralChromaIsGrey : Platform.standard.coeffs = Coeffs.document := rfl

/-! CSRs. -/

theorem witness_ParameterWriteChangesThatRegisterAlone :
    let s := { running with inputs := [.csrWrite (running.plat.csrBase + csrOffset .pixIn) .w32 0xAB0000FF,
      .csrRead (running.plat.csrBase + csrOffset .pixIn) .w32] }
    Csr.isParameter .pixIn = true ∧ s.resetPin = false ∧
      s.inputs = .csrWrite (s.plat.csrBase + csrOffset .pixIn) .w32 0xAB0000FF ::
        .csrRead (s.plat.csrBase + csrOffset .pixIn) .w32 :: [] := by decide

/-- The last reserved offset below a defined CSR, the first past the last one, and the two constants. -/
theorem witness_ReservedAndReadOnlyCsrs :
    (0xFC < 256 ∧ 0xFC % 4 = 0 ∧ 0x58 ≤ 0xFC) ∧
      0x54 ∉ [0x08, 0x0C, 0x10, 0x20, 0x24, 0x28, 0x30, 0x34, 0x38, 0x40, 0x44, 0x48, 0x50] ∧ State.reset.resetPin = false ∧
      (idle (.csrWrite 0x54 .w32 1)).inputs = [.csrWrite (State.reset.plat.csrBase + 0x54) .w32 1] ∧
      (idle (.csrRead 0x58 .w32)).inputs = [.csrRead (State.reset.plat.csrBase + 0x58) .w32] ∧
      (idle (.csrRead 0x00 .w32)).inputs = [.csrRead (State.reset.plat.csrBase + 0x00) .w32] ∧
      (idle (.csrRead 0x04 .w32)).inputs = [.csrRead (State.reset.plat.csrBase + 0x04) .w32] := by decide

/-- Its clauses on the other CSRs: every offset named is in the window, aligned and neither STATUS nor PIX_OUT, and a state reads there. -/
theorem witness_EveryReadClause :
    ∀ off ∈ [0x08, 0x10, 0x14, 0x18, 0x1C, 0x20, 0x24, 0x28, 0x2C, 0x30, 0x34, 0x38, 0x3C, 0x40, 0x44, 0x48, 0x4C, 0x50, 0x58],
      off < 256 ∧ off % 4 = 0 ∧ off ≠ 0x0C ∧ off ≠ 0x54 ∧
        (idle (.csrRead off .w32)).inputs = [.csrRead (State.reset.plat.csrBase + off) .w32] := by decide

/-- R28, R29, R200: after SIZE_MISMATCH(24, 23) the host reads 2, 24 and 23 (V-DEC-4). -/
theorem test_error_record_reads :
    let s (off : Nat) := { after (step (busy .decode { dims 4 4 0x2000 0x3000 with srcLen := 23 } [])) with inputs := [.csrRead off .w32] }
    readBack (step (s 0x14)) = some (.readData 2) ∧ readBack (step (s 0x18)) = some (.readData 24) ∧
      readBack (step (s 0x1C)) = some (.readData 23) := by decide

theorem witness_OtherCsrAccessesGetABusError :
    ((Width.w8 ≠ .w32) ∧ (idle (.csrRead 0x0C .w8)).inputs = [.csrRead (State.reset.plat.csrBase + 0x0C) .w8]) ∧
      (255 < 256 ∧ 255 % 4 ≠ 0 ∧ (idle (.csrWrite 255 .w32 1)).inputs = [.csrWrite (State.reset.plat.csrBase + 255) .w32 1]) ∧
      State.reset.resetPin = false := by decide

theorem witness_StatusShowsTheFlagsAndClearsThem :
    (4 ≤ 4 ∧ running.resetPin = false ∧
      (event (.csrRead 0x0C .w32) running).inputs = [.csrRead (running.plat.csrBase + 0x0C) .w32]) ∧
      (idle (.csrWrite 0x0C .w32 0xE)).resetPin = false ∧
      (idle (.csrWrite 0x0C .w32 0xE)).inputs = [.csrWrite (State.reset.plat.csrBase + 0x0C) .w32 0xE] := by decide

/-- While IDLE and while BUSY, with both values of SOFT_RESET; address 0x2006 is just past the destination. -/
theorem witness_CtrlWriteSetsIrqEnOrResets :
    (event (.csrWrite 0x08 .w32 1) running).inputs = [.csrWrite (running.plat.csrBase + 0x08) .w32 1] ∧
      (1#32).getLsbD 1 = false ∧ (3#32).getLsbD 1 = true ∧ State.reset.phase = .idle ∧
      (∀ r ∈ inFlight running.snap, r.slot.isDst = true → Region.has r 0x2006 = false) ∧ running.resetPin = false := by decide

/-- For a CTRL write with SOFT_RESET and for the reset input: a command on a device is BUSY, and one that is not. -/
theorem witness_ResetsOnADeviceOrNot :
    ((onDevice (.csrWrite 0x08 .w32 2)).phase = .busy ∧ complete (onDevice (.csrWrite 0x08 .w32 2)) = .fault .deviceRegion) ∧
      ((onDevice (.resetPin false)).phase = .busy ∧ complete (onDevice (.resetPin false)) = .fault .deviceRegion ∧
        (onDevice (.resetPin false)).inputs = [.resetPin false]) ∧
      complete running = .next (after (complete running)) :=
  ⟨⟨rfl, rfl⟩, ⟨rfl, rfl, rfl⟩, eq_next (by decide)⟩

theorem witness_HardwareResetGivesTheResetState :
    let s := { running with inputs := [.resetPin true, .csrRead (running.plat.csrBase + 255) .w8] }
    s.inputs = .resetPin true :: [.csrRead (running.plat.csrBase + 255) .w8] ∧
      (∀ r ∈ inFlight s.snap, r.slot.isDst = true → Region.has r 0x1FFF = false) ∧ 255 < 256 := by decide

theorem witness_InterruptFollowsDoneAndErr :
    running.Inv ∧ running.phase = .busy ∧ (event .irqSample running).inputs = [.irqSample] := ⟨running_inv, rfl, rfl⟩

theorem witness_OnlyPixelCommandsAndResetChangePixOut :
    let s := busy .pixRgb2yuv { Snap.zero with pixIn := 0x0000FF } []
    step s = .next (after (step s)) ∧ (after (step s)).pixOut ≠ s.pixOut := ⟨eq_next (by decide), by decide⟩

theorem witness_OnlyCmdWritesStartACommand :
    (step (idle (.csrWrite 0x10 .w32 1)) = .next (after (step (idle (.csrWrite 0x10 .w32 1)))) ∧
      (idle (.csrWrite 0x10 .w32 1)).phase = .idle ∧ (after (step (idle (.csrWrite 0x10 .w32 1)))).phase = .busy) ∧
    (step running = .next (after (step running)) ∧ running.phase = .busy ∧ (after (step running)).phase = .idle) :=
  ⟨⟨eq_next (by decide), by decide, by decide⟩, eq_next (by decide), by decide, by decide⟩

/-! Memory and the agents outside. -/

/-- A write of the byte after the destination region, while the command is unobserved. -/
theorem witness_OutsideWriteThenRead :
    let s := event (.memWrite .host 0x2006 7) running
    Memory.wf s.mem = true ∧ s.inputs = [.memWrite .host 0x2006 7] ∧ s.guardedSource (0x2006#32).toNat = false ∧
      s.guardedDestination (0x2006#32).toNat = false ∧
      ({ s with plat := { Platform.standard with dmaCoherent := false } } : State).plat.dmaCoherent = false := by decide

/-- The last byte of each region, the byte before the destination, and both ways of observing. -/
theorem witness_BufferDutyUntilCompletionIsObserved :
    (∃ p ∈ running.unobserved, (∃ r ∈ inFlight p.snap, Region.has r (0x2005#32).toNat = true ∧ r.slot.isDst = true) ∧
      ∃ r ∈ inFlight p.snap, Region.has r (0x100B#32).toNat = true) ∧
    (∀ p ∈ running.unobserved, ∀ r ∈ inFlight p.snap, r.slot.isDst = true → Region.has r (0x1FFF#32).toNat = false) ∧
    (event (.memRead .other 0x1FFF) running).inputs = [.memRead .other 0x1FFF] ∧
    ((idle (.csrRead 0x0C .w32)).resetPin = false ∧ (idle (.csrRead 0x0C .w32)).phase = .idle ∧
      (idle (.csrRead 0x0C .w32)).inputs = [.csrRead (State.reset.plat.csrBase + 0x0C) .w32]) ∧
    ({ idle .irqSample with irqEn := true, done := true } : State).irq = true := by decide

theorem witness_AccessesSeeMemory :
    (running.Inv ∧ running.plat.dmaCoherent = true) ∧
      AddrSet.has ({ running with dirty := [0x1000] } : State).dirty ((running.snap.addr .src0).toNat + 1) = false ∧
      AddrSet.has ({ running with stale := [0x1000] } : State).stale 0x1001 = false :=
  ⟨⟨running_inv, rfl⟩, by decide, by decide⟩

theorem witness_CacheMaintenanceRestoresTheView :
    let s := { idle (.cacheWriteBack ⟨0x1000, 2⟩) with plat := { Platform.standard with dmaCoherent := false }, dirty := [0x1001] }
    let s' := { s with inputs := [.cacheInvalidate ⟨0x1000, 2⟩] }
    (step s = .next (after (step s)) ∧ s.inputs = [.cacheWriteBack ⟨0x1000, 2⟩]) ∧
      step s' = .next (after (step s')) ∧ AddrRange.has ⟨0x1000, 2⟩ 0x1001 = true ∧ AddrSet.has s'.dirty 0x1002 = false :=
  ⟨⟨eq_next (by decide), rfl⟩, eq_next (by decide), by decide, by decide⟩

theorem witness_PixOutReadsOldOrNew :
    running.resetPin = false ∧
      (event (.csrRead 0x54 .w32) running).inputs = [.csrRead (running.plat.csrBase + 0x54) .w32] ∧
      (∀ p ∈ running.unobserved, p.snap.isPixel = false) ∧ (running.phase = .busy → running.snap.isPixel = false) := by decide

/-! The machine as a whole. -/

theorem witness_StepKeepsTheInvariant : running.Inv ∧ step running = .next (after (step running)) :=
  ⟨running_inv, eq_next (by decide)⟩

theorem witness_AcceptedCommandsComplete :
    running.phase = .busy ∧ ∃ t, Host.Core.run Sys2Proof.core 1 running = .next t := ⟨rfl, _, eq_next (by decide)⟩

theorem witness_ParametersOfThePlatformAreFixed :
    (step (event (.busChange []) running) = .next (after (step (event (.busChange []) running)))) ∧ running.phase = .busy :=
  ⟨eq_next (by decide), rfl⟩

theorem witness_OnlyTheNamedAccessesStopARun :
    step (event (.memRead .other 0x2000) running) = .fault (.destinationRace 0x2000) ∧
      step (event (.memWrite .host 0x100B 1) running) = .fault (.sourceRace 0x100B) ∧
      step (onDevice .engine) = .fault .deviceRegion ∧
      step (idle (.csrRead 256 .w32)) = .refused (.outsideCsrWindow 256) := ⟨rfl, rfl, rfl, rfl⟩

end Sys2Proof.Tests
end

section
/-! PROOFS. The family 00_scope.md: the rounding of binary32 (R13), writes by agents outside (R11, R20), and the parameters that no
step changes (R8, R83). -/

namespace Sys2Proof.Machine

/-! ### The rounding of binary32 (R13) -/

/-- The quotient is rounded down at a remainder of at most half a unit, and up at one of at least half. -/
theorem roundEven_cases (n d : Nat) :
    roundEven n d = n / d ∧ 2 * (n % d) ≤ d ∨ roundEven n d = n / d + 1 ∧ d ≤ 2 * (n % d) := by
  unfold roundEven
  dsimp only
  split
  · omega
  · split <;> omega

/-- The rounded quotient is off by at most half a unit. -/
theorem two_mul_abs_roundEven_mul_sub_le (n : Nat) {d : Nat} (hd : 0 < d) :
    2 * |(roundEven n d : Int) * d - n| ≤ d := by
  have hdiv : (n : Int) = d * (n / d : Nat) + (n % d : Nat) := by exact_mod_cast (Nat.div_add_mod n d).symm
  have hmod : n % d < d := Nat.mod_lt n hd
  have hup : ((n / d : Nat) + 1 : Int) * d - n = d - (n % d : Nat) := by rw [hdiv]; ring
  have hdown : ((n / d : Nat) : Int) * d - n = -(n % d : Nat) := by rw [hdiv]; ring
  rcases roundEven_cases n d with ⟨hr, hle⟩ | ⟨hr, hle⟩ <;> rw [hr]
  · rw [hdown, abs_neg, Nat.abs_cast]; omega
  · rw [Nat.cast_add_one, hup, abs_of_nonneg (by omega)]; omega

/-- No whole number is nearer than the rounded quotient. -/
theorem abs_roundEven_mul_sub_le (n : Nat) {d : Nat} (hd : 0 < d) (q : Int) :
    |(roundEven n d : Int) * d - n| ≤ |q * d - n| := by
  have hhalf := two_mul_abs_roundEven_mul_sub_le n hd
  rcases eq_or_ne q (roundEven n d) with rfl | hq
  · exact le_rfl
  · have hgap : (d : Int) ≤ |q * d - (roundEven n d : Int) * d| := by
      rw [← sub_mul, abs_mul, Nat.abs_cast]
      exact le_mul_of_one_le_left (by omega) (Int.one_le_abs (sub_ne_zero.mpr hq))
    have htri := abs_sub_le (q * d) (n : Int) ((roundEven n d : Int) * d)
    rw [abs_sub_comm (n : Int)] at htri
    omega

theorem roundEven_le_of_lt {n d q : Nat} (h : n < q * d) : roundEven n d ≤ q := by
  have hdiv : n / d < q := Nat.div_lt_of_lt_mul (by rwa [Nat.mul_comm])
  rcases roundEven_cases n d with ⟨hr, _⟩ | ⟨hr, _⟩ <;> omega

/-- The exponent that `f32Mag` rounds at. -/
def f32Exp (n d : Nat) : Nat := Nat.log2 (n / d) - 23

theorem f32Mag_eq (n d : Nat) : f32Mag n d = roundEven n (d * 2 ^ f32Exp n d) * 2 ^ f32Exp n d := rfl

/-- The exponent leaves at most 24 bits of the quotient. -/
theorem lt_of_f32Exp (n : Nat) {d : Nat} (hd : 0 < d) : n < 2 ^ 24 * (d * 2 ^ f32Exp n d) := by
  have hlog : n / d < 2 ^ (24 + f32Exp n d) :=
    (Nat.lt_log2_self (n := n / d)).trans_le (Nat.pow_le_pow_right (by omega) (by unfold f32Exp; omega))
  calc n < d * 2 ^ (24 + f32Exp n d) := Nat.lt_mul_of_div_lt hlog hd |>.trans_eq (Nat.mul_comm _ _)
    _ = 2 ^ 24 * (d * 2 ^ f32Exp n d) := by rw [pow_add]; ring

/-- A positive exponent is taken only when the quotient has that many bits beyond 23. -/
theorem mul_two_pow_le_of_f32Exp_pos {n d : Nat} (hk : 0 < f32Exp n d) : 2 ^ (23 + f32Exp n d) * d ≤ n := by
  have hne : n / d ≠ 0 := by
    intro h
    rw [f32Exp, h] at hk
    exact absurd hk (by decide)
  have hexp : 23 + f32Exp n d = Nat.log2 (n / d) := by unfold f32Exp at *; omega
  rw [hexp]
  exact (Nat.mul_le_mul_right d (Nat.log2_self_le hne)).trans (Nat.div_mul_le_self n d)

/-- The rounded magnitude is nearest among the multiples of its last place. -/
theorem abs_f32Mag_mul_sub_le_multiple (n : Nat) {d : Nat} (hd : 0 < d) (q : Int) :
    |(f32Mag n d : Int) * d - n| ≤ |q * 2 ^ f32Exp n d * d - n| := by
  have h := abs_roundEven_mul_sub_le n (Nat.mul_pos hd (Nat.two_pow_pos (f32Exp n d))) q
  rw [f32Mag_eq]
  push_cast at h ⊢
  simpa only [mul_assoc, mul_comm (d : Int)] using h

/-- No value of less than 24 significant bits is nearer than the rounded magnitude: one with a smaller exponent lies below the least
24-bit multiple of the last place, which is itself no nearer. -/
theorem abs_f32Mag_mul_sub_le (n : Nat) {d : Nat} (hd : 0 < d) {m : Int} (hm : m.natAbs < 2 ^ 24) (e : Nat) :
    |(f32Mag n d : Int) * d - n| ≤ |m * 2 ^ e * d - n| := by
  rcases Nat.lt_or_ge e (f32Exp n d) with hlt | hge
  · have hbelow : m * 2 ^ e * d ≤ 2 ^ 23 * 2 ^ f32Exp n d * d := by
      have hpow : (2 : Int) ^ (e + 1) ≤ 2 ^ f32Exp n d := pow_le_pow_right₀ (by norm_num) hlt
      refine mul_le_mul_of_nonneg_right ?_ (Int.natCast_nonneg d)
      calc m * 2 ^ e ≤ 2 ^ 24 * 2 ^ e := mul_le_mul_of_nonneg_right (by omega) (by positivity)
        _ = 2 ^ 23 * 2 ^ (e + 1) := by ring
        _ ≤ 2 ^ 23 * 2 ^ f32Exp n d := by gcongr
    have hleast : (2 : Int) ^ 23 * 2 ^ f32Exp n d * d ≤ n := by
      have := mul_two_pow_le_of_f32Exp_pos (n := n) (d := d) (by omega)
      rw [pow_add] at this
      exact_mod_cast this
    calc |(f32Mag n d : Int) * d - n| ≤ |(2 : Int) ^ 23 * 2 ^ f32Exp n d * d - n| := abs_f32Mag_mul_sub_le_multiple n hd _
      _ ≤ |m * 2 ^ e * d - n| := abs_le_abs_of_nonpos (by omega) (by omega)
  · obtain ⟨j, rfl⟩ := Nat.exists_eq_add_of_le hge
    have hmul : m * 2 ^ (f32Exp n d + j) = m * 2 ^ j * 2 ^ f32Exp n d := by rw [pow_add]; ring
    rw [hmul]
    exact abs_f32Mag_mul_sub_le_multiple n hd _

theorem f32Round_units_of_nonneg {n : Int} (d : Nat) (hn : 0 ≤ n) : (f32Round n d).units = f32Mag n.natAbs d := by
  rw [f32Round, if_neg (by omega)]

theorem f32Round_units_of_neg {n : Int} (d : Nat) (hn : n < 0) : (f32Round n d).units = -f32Mag n.natAbs d := by
  rw [f32Round, if_pos hn]

/-- The rounded magnitude has at most 24 significant bits. -/
theorem exists_f32Mag_eq (n : Nat) {d : Nat} (hd : 0 < d) : ∃ q e : Nat, q ≤ 2 ^ 24 ∧ f32Mag n d = q * 2 ^ e :=
  ⟨_, f32Exp n d, roundEven_le_of_lt (lt_of_f32Exp n hd), f32Mag_eq n d⟩

theorem exists_f32Round_units_eq (n : Int) {d : Nat} (hd : 0 < d) :
    ∃ m : Int, ∃ e : Nat, m.natAbs ≤ 2 ^ 24 ∧ (f32Round n d).units = m * 2 ^ e := by
  obtain ⟨q, e, hle, hmag⟩ := exists_f32Mag_eq n.natAbs hd
  rcases lt_or_ge n 0 with hn | hn
  · exact ⟨-q, e, by simpa using hle, by rw [f32Round_units_of_neg d hn, hmag]; push_cast; ring⟩
  · exact ⟨q, e, by simpa using hle, by rw [f32Round_units_of_nonneg d hn, hmag]; push_cast; rfl⟩

/-- Below zero the distances are those of the magnitudes, with the sign of `m` turned. -/
theorem abs_f32Round_mul_sub_le (n : Int) {d : Nat} (hd : 0 < d) {m : Int} (hm : m.natAbs < 2 ^ 24) (e : Nat) :
    |(f32Round n d).units * d - n| ≤ |m * 2 ^ e * d - n| := by
  rcases lt_or_ge n 0 with hn | hn
  · have hmag := abs_f32Mag_mul_sub_le n.natAbs hd (m := -m) (by rwa [Int.natAbs_neg]) e
    rw [Int.ofNat_natAbs_of_nonpos hn.le] at hmag
    rw [f32Round_units_of_neg d hn, ← abs_neg, ← abs_neg (m * 2 ^ e * d - n)]
    convert hmag using 2 <;> ring
  · have hmag := abs_f32Mag_mul_sub_le n.natAbs hd hm e
    rw [Int.natAbs_of_nonneg hn] at hmag
    rwa [f32Round_units_of_nonneg d hn]

/-- Settles O37: a candidate with the last place of the rounded value is no nearer by the choice of the quotient, one with a smaller
exponent because it lies below all 24-bit multiples of that place. -/
theorem roundingIsToANearestBinary32Value : Obligations.RoundingIsToANearestBinary32Value := by
  unfold Obligations.RoundingIsToANearestBinary32Value
  intro n d hd
  exact ⟨exists_f32Round_units_eq n hd, fun m e hm => abs_f32Round_mul_sub_le n hd hm e⟩

/-! ### A write by an agent outside (R11, R20, R78) -/

/-- With a coherent DMA, or for another master, no mark of the host's cache changes. -/
theorem State.markWrite_of_unmarked {s : State} {ag : Agent} (h : ag = .other ∨ s.plat.dmaCoherent = true) (a : Nat) :
    s.markWrite ag a = s := by
  cases ag with
  | other => rfl
  | host =>
    have hc : s.plat.dmaCoherent = true := h.resolve_left nofun
    rw [State.markWrite, if_pos hc]

/-- Without a coherent DMA the host's write marks its byte as not written back and not stale. -/
theorem State.markWrite_host {s : State} (h : s.plat.dmaCoherent = false) (a : Nat) :
    s.markWrite .host a = { s with dirty := AddrSet.insert s.dirty a, stale := AddrSet.dropRange s.stale a 1 } := by
  simp [State.markWrite, h]

theorem State.has_markWrite_host_dirty {s : State} (h : s.plat.dmaCoherent = false) (a b : Nat) :
    AddrSet.has (s.markWrite .host a).dirty b = (b == a || AddrSet.has s.dirty b) := by
  rw [State.markWrite_host h]
  exact AddrSet.has_insert s.dirty a b

theorem State.has_markWrite_host_stale {s : State} (h : s.plat.dmaCoherent = false) (a b : Nat) :
    AddrSet.has (s.markWrite .host a).stale b = (AddrSet.has s.stale b && b != a) := by
  have hone : (!(decide (a ≤ b) && decide (b < a + 1))) = (b != a) := by
    rw [Bool.eq_iff_iff]
    simp
  rw [State.markWrite_host h, ← hone]
  exact AddrSet.has_dropRange s.stale a 1 b

@[simp] theorem State.markWrite_plat (s : State) (ag : Agent) (a : Nat) : (s.markWrite ag a).plat = s.plat := by
  unfold State.markWrite
  split
  · split <;> rfl
  · rfl

/-- A write by an agent outside to a byte that no duty guards: the byte, its marks, and the step's bookkeeping. -/
theorem step_memWrite {s : State} {ag : Agent} {a : Word} {v : Byte} {rest : List Event}
    (h : s.inputs = .memWrite ag a v :: rest) (hsrc : s.guardedSource a.toNat = false)
    (hdst : s.guardedDestination a.toNat = false) :
    step s = .next
      { s with
        mem := Memory.write s.mem a.toNat v
        dirty := (s.markWrite ag a.toNat).dirty, stale := (s.markWrite ag a.toNat).stale
        inputs := rest, draws := s.draws + 1, responses := .memDone :: s.responses } := by
  have hsrc' : s.tick.guardedSource a.toNat = false := hsrc
  have hdst' : s.tick.guardedDestination a.toNat = false := hdst
  rw [step_cons h, turn, memWrite, hsrc', hdst']
  cases ag with
  | other => simp [State.markWrite, State.tick, State.respond, h]
  | host => cases hc : s.plat.dmaCoherent <;> simp [State.markWrite, State.tick, State.respond, h, hc]

/-- Settles O50: the step of a permitted write is the write of one byte to memory, with the marks that `markWrite` sets. -/
theorem outsideWriteThenRead : Obligations.OutsideWriteThenRead := by
  unfold Obligations.OutsideWriteThenRead
  intro s ag a v rest hwf hin hsrc hdst
  refine ⟨_, step_memWrite hin hsrc hdst, Memory.read_write_self hwf _ v, Memory.wf_write hwf v a.isLt,
    fun b hb => Memory.read_write_ne s.mem v hb, fun h => ?_, ?_, rfl⟩
  · simp [State.markWrite_of_unmarked h]
  · rintro rfl hc b
    exact ⟨State.has_markWrite_host_dirty hc _ b, State.has_markWrite_host_stale hc _ b⟩

/-! ### The parameters of the platform (R8, R83) -/

@[simp] theorem State.resetCore_plat (s : State) : s.resetCore.plat = s.plat := by simp [State.resetCore]

@[simp] theorem State.writeCmd_plat (s : State) (c : Word) : (s.writeCmd c).plat = s.plat := by
  unfold State.writeCmd; split <;> rfl

@[simp] theorem State.writeCsr_plat (s : State) (c : Csr) (v : Word) : (s.writeCsr c v).plat = s.plat := by
  cases c with
  | ctrl =>
    rw [State.writeCsr]
    split <;> simp
  | cmd => exact State.writeCmd_plat s v
  | _ => rfl

@[simp] theorem State.writeOffset_plat (s : State) (off : Nat) (v : Word) : (s.writeOffset off v).plat = s.plat := by
  unfold State.writeOffset; split <;> simp

@[simp] theorem State.observeStatus_plat (s : State) (off : Nat) : (s.observeStatus off).plat = s.plat := by
  rcases observeStatus_cases s off with h | ⟨_, h⟩ <;> rw [h]

/-- No command changes the platform. -/
theorem exec_plat {i : Instr} {s t : State} (h : exec i s = .next t) : t.plat = s.plat := by
  rcases exec_cases h with ⟨c, x, y, ⟨_, rfl⟩ | ⟨_, rfl⟩, _⟩ | ⟨f, rfl⟩ | ⟨v, _, rfl⟩ <;> simp

theorem complete_plat {s t : State} (h : complete s = .next t) : t.plat = s.plat := by
  unfold complete at h
  split at h
  · exact exec_plat h
  · cases h; rfl

theorem csrRead_plat {addr : Nat} {w : Width} {s t : State} (h : csrRead addr w s = .next t) : t.plat = s.plat := by
  obtain ⟨off, _, ⟨_, rfl⟩ | ⟨_, _, rfl⟩ | ⟨_, _, rfl⟩⟩ := csrRead_cases h <;> simp

theorem csrWrite_plat {addr : Nat} {w : Width} {v : Word} {s t : State} (h : csrWrite addr w v s = .next t) :
    t.plat = s.plat := by
  obtain ⟨off, _, ⟨_, rfl⟩ | ⟨_, _, _, rfl⟩ | ⟨_, _, rfl⟩⟩ := csrWrite_cases h <;> simp

/-- Everything a step can do to the platform: keep it, or change its bus behaviour while IDLE. -/
def PlatformKeptOrBusChanged (s t : State) : Prop :=
  t.plat = s.plat ∨ s.phase = .idle ∧ ∃ faults, t.plat = { s.plat with busFaults := faults }

/-- A change of the bus behaviour is the only turn that touches the platform. -/
theorem turn_plat {e : Event} {s t : State} (h : turn e s = .next t) : PlatformKeptOrBusChanged s t := by
  cases e with
  | busChange faults =>
    simp only [turn, busChange] at h
    split at h
    · cases h; exact .inl rfl
    · next hp => cases h; exact .inr ⟨hp, faults, rfl⟩
  | engine =>
    simp only [turn, engineTurn] at h
    split at h
    · exact .inl (complete_plat h)
    · cases h; exact .inl rfl
  | csrRead addr w => exact .inl (csrRead_plat h)
  | csrWrite addr w v => exact .inl (csrWrite_plat h)
  | memRead ag a =>
    obtain ⟨_, rfl⟩ := memRead_cases h
    exact .inl rfl
  | memWrite ag a v =>
    obtain ⟨_, _, rfl⟩ := memWrite_cases h
    exact .inl (by simp)
  | cacheWriteBack r =>
    obtain rfl := cacheWriteBack_cases h
    exact .inl rfl
  | cacheInvalidate r => cases h; exact .inl rfl
  | irqSample => cases h; exact .inl rfl
  | resetPin level =>
    obtain ⟨_, rfl⟩ := driveResetPin_cases h
    exact .inl (State.resetCore_plat s)

theorem quietTurn_plat {s t : State} (h : quietTurn s = .next t) : t.plat = s.plat := by
  unfold quietTurn at h
  split at h
  · exact complete_plat (s := s.tick) h
  · cases h; rfl

theorem step_plat {s t : State} (h : step s = .next t) : PlatformKeptOrBusChanged s t := by
  unfold step at h
  split at h
  · exact .inl (quietTurn_plat h)
  · exact turn_plat (s := s.tick) h

/-- Settles O58: a step keeps the platform, or changes its bus behaviour alone, and that only while IDLE. -/
theorem parametersOfThePlatformAreFixed : Obligations.ParametersOfThePlatformAreFixed := by
  unfold Obligations.ParametersOfThePlatformAreFixed
  intro s t h
  rcases step_plat h with hkept | ⟨hidle, faults, hbus⟩
  · simp [hkept]
  · simp [hbus, hidle]

end Sys2Proof.Machine
end

section
/-! PROOFS. The family 10_state.md: the invariant of the machine (R25 to R30, R112, R203, R230), the CSR accesses of the host (R20 to
R41), and what changes PIX_OUT and the phase (R37, R42). -/

namespace Sys2Proof.Machine

/-! ### The completion of the running command (R120 to R122, R204) -/

/-- Only a command's own word decodes to it (R91, R95). -/
theorem eq_encode_of_decode {c : Word} {i : Instr} (h : decode c = .ok i) : c = encode i := by
  have hrow : ∀ r ∈ opcodeMap, encode r.instr = r.pattern ∧ r.mask = 0xFFFFFFFF#32 := by decide
  unfold decode at h
  split at h
  · next r hr =>
    obtain ⟨henc, hmask⟩ := hrow r (List.mem_of_find?_eq_some hr)
    have hmatch : r.matches c = true := List.find?_some (p := fun r => OpRow.matches r c) hr
    have hfull : r = ⟨r.pattern, 0xFFFFFFFF#32, r.instr⟩ := hmask ▸ rfl
    rw [hfull] at hmatch
    cases h
    rw [henc]
    exact (opRow_matches_iff _ _ _).mp hmatch
  · cases h

/-- The codes that a completion can raise: neither the empty one nor a reserved one (R200, R203). -/
def ErrCode.IsRaised (c : ErrCode) : Prop := c ≠ .none ∧ c ≠ .notFound ∧ c ≠ .format

/-- Everything a completion can do when it answers a next state: an error (R121, R204), success of a command that may write memory,
or success of a pixel command (R120). With no region the writes of the first two are none. -/
theorem complete_cases {s t : State} (h : complete s = .next t) :
    (∃ rs f c x y, ErrCode.IsRaised c ∧ t = (s.dmaWriteAll rs f).raise c x y) ∨
    (∃ rs f, t = (s.dmaWriteAll rs f).finishOk) ∨
    (∃ v, (s.snap.cmd = encode .pixRgb2yuv ∨ s.snap.cmd = encode .pixYuv2rgb) ∧ t = { s with pixOut := v }.finishOk) := by
  unfold complete at h
  split at h
  · next i hi =>
    rcases exec_cases h with ⟨c, x, y, hwrites, hcode⟩ | ⟨f, rfl⟩ | ⟨v, hpix, rfl⟩
    · have hraised : ErrCode.IsRaised c := by
        rcases hcode with rfl | rfl | rfl | rfl | rfl <;> exact ⟨nofun, nofun, nofun⟩
      left
      rcases hwrites with ⟨_, rfl⟩ | ⟨_, rfl⟩
      · exact ⟨[], fun _ _ => 0#8, c, x, y, hraised, rfl⟩
      · exact ⟨regions i s.snap, _, c, x, y, hraised, rfl⟩
    · exact .inr (.inl ⟨_, f, rfl⟩)
    · refine .inr (.inr ⟨v, ?_, rfl⟩)
      rw [eq_encode_of_decode hi]
      exact hpix.imp (congrArg encode) (congrArg encode)
  · cases h
    exact .inl ⟨[], fun _ _ => 0#8, .illegalCmd, _, _, ⟨nofun, nofun, nofun⟩, rfl⟩

/-! ### What a CSR write does (R21 to R39) -/

/-- A write to a parameter CSR changes parameter CSRs alone (R40). -/
theorem State.writeCsr_parameter (s : State) {c : Csr} (h : Csr.isParameter c = true) (v : Word) :
    s.writeCsr c v = s.withParams ((s.writeCsr c v).latch 0#32) := by
  cases c with
  | width | height | srcLen | src0Addr | src1Addr | src2Addr | dst0Addr | dst1Addr | dst2Addr | pixIn => rfl
  | _ => cases h

/-- Everything a write of a defined CSR can do. -/
theorem State.writeCsr_cases (s : State) (c : Csr) (v : Word) :
    s.writeCsr c v = s ∨
    (∃ n, s.writeCsr c v = s.withParams n) ∨
    (c = .status ∧ s.writeCsr c v = s.clearStatus v) ∨
    (c = .cmd ∧ s.writeCsr c v = s.writeCmd v) ∨
    (c = .ctrl ∧ v.getLsbD 1 = false ∧ s.writeCsr c v = { s with irqEn := v.getLsbD 0 }) ∨
    (c = .ctrl ∧ v.getLsbD 1 = true ∧ s.writeCsr c v = { s with irqEn := v.getLsbD 0 }.resetCore) := by
  cases c with
  | id | version | errCode | errArg0 | errArg1 | pixOut => exact .inl rfl
  | status => exact .inr (.inr (.inl ⟨rfl, rfl⟩))
  | cmd => exact .inr (.inr (.inr (.inl ⟨rfl, rfl⟩)))
  | ctrl =>
    refine .inr (.inr (.inr (.inr ?_)))
    cases hv : v.getLsbD 1 with
    | false => exact .inl ⟨rfl, rfl, by rw [State.writeCsr, if_neg (hv ▸ Bool.false_ne_true)]⟩
    | true => exact .inr ⟨rfl, rfl, by rw [State.writeCsr, if_pos hv]⟩
  | width | height | srcLen | src0Addr | src1Addr | src2Addr | dst0Addr | dst1Addr | dst2Addr | pixIn =>
    exact .inr (.inl ⟨_, State.writeCsr_parameter s rfl v⟩)

/-- A write at an offset is ignored, or is a write of the CSR there (R38). -/
theorem State.writeOffset_cases (s : State) (off : Nat) (v : Word) :
    s.writeOffset off v = s ∨ ∃ c, off = csrOffset c ∧ s.writeOffset off v = s.writeCsr c v := by
  unfold State.writeOffset
  split
  · next c hc => exact .inr ⟨c, csrAt_some hc, rfl⟩
  · exact .inl rfl

/-! ### The invariant -/

section invariant

variable {s : State}

theorem State.Inv.tick (h : s.Inv) : s.tick.Inv :=
  { h with inReset := fun hr => congrArg State.tick (h.inReset hr) }

theorem State.Inv.respond (h : s.Inv) (r : Response) : (s.respond r).Inv :=
  { h with inReset := fun hr => congrArg (State.respond · r) (h.inReset hr) }

/-- Memory and the marks of the host's cache may be replaced by others in canonical form. -/
theorem State.Inv.setMemory (h : s.Inv) {m : Memory} {d st : AddrSet} (hm : Memory.wf m = true) (hd : AddrSet.wf d = true)
    (hst : AddrSet.wf st = true) (hc : s.plat.dmaCoherent = true → d = [] ∧ st = []) :
    ({ s with mem := m, dirty := d, stale := st } : State).Inv :=
  { h with
    memWf := hm, dirtyWf := hd, staleWf := hst, coherent := hc
    inReset := fun hr => congrArg (fun u : State => { u with mem := m, dirty := d, stale := st }) (h.inReset hr) }

theorem State.Inv.dmaWriteAll (h : s.Inv) (rs : List Region) (f : Slot → Nat → Byte) : (s.dmaWriteAll rs f).Inv := by
  obtain ⟨hd, hst⟩ := State.wf_dmaWriteAll_sets s rs f h.dirtyWf h.staleWf
  rw [State.dmaWriteAll_frame]
  refine h.setMemory (State.wf_dmaWriteAll s rs f h.memWf) hd hst fun hc => ?_
  obtain ⟨hdirty, hstale⟩ := State.dmaWriteAll_coherent s rs f hc
  rw [hdirty, hstale]
  exact h.coherent hc

/-- An IDLE machine's host may come to have observed every completion. -/
theorem State.Inv.observe (h : s.Inv) (hidle : s.phase = .idle) : ({ s with unobserved := [] } : State).Inv :=
  { h with
    running := fun hb => absurd (hb.symm.trans hidle) nofun
    inReset := fun hr => congrArg (fun u : State => { u with unobserved := [] }) (h.inReset hr) }

theorem State.Inv.setPixOut (h : s.Inv) (hr : s.resetPin = false) (v : Pix) : ({ s with pixOut := v } : State).Inv :=
  { h with inReset := by simp [hr] }

theorem State.Inv.setIrqEn (h : s.Inv) (hr : s.resetPin = false) (b : Bool) : ({ s with irqEn := b } : State).Inv :=
  { h with inReset := by simp [hr] }

theorem State.Inv.setDrop (h : s.Inv) (hr : s.resetPin = false) : ({ s with drop := true } : State).Inv :=
  { h with inReset := by simp [hr] }

theorem State.Inv.withParams (h : s.Inv) (hr : s.resetPin = false) (n : Snap) : (s.withParams n).Inv :=
  { h with inReset := by simp [State.withParams, hr] }

theorem State.Inv.setBusFaults (h : s.Inv) (faults : List BusFault) :
    ({ s with plat := { s.plat with busFaults := faults } } : State).Inv :=
  { h with inReset := fun hr => congrArg (fun u : State => { u with plat := { u.plat with busFaults := faults } }) (h.inReset hr) }

theorem State.Inv.raise (h : s.Inv) (hb : s.phase = .busy) {c : ErrCode} (hc : ErrCode.IsRaised c) (x y : Word) :
    (s.raise c x y).Inv := by
  obtain ⟨hdone, _, _, _, hpin, _⟩ := h.running hb
  obtain ⟨hne, hreserved⟩ := hc
  exact
    { h with
      doneErr := by simp [hdone]
      running := nofun
      errHasCode := fun _ => hne
      doneNoCode := by simp [hdone]
      noCodeNoArgs := fun hn => absurd hn hne
      noReservedCode := hreserved
      inReset := by simp [hpin] }

theorem State.Inv.finishOk (h : s.Inv) (hb : s.phase = .busy) : s.finishOk.Inv := by
  obtain ⟨_, herr, hcode, _, hpin, _⟩ := h.running hb
  exact
    { h with
      doneErr := by simp [herr]
      running := nofun
      doneNoCode := fun _ => hcode
      inReset := by simp [hpin] }

/-- The completion of a running command keeps the invariant. -/
theorem State.Inv.complete {t : State} (h : s.Inv) (hb : s.phase = .busy) (ht : complete s = .next t) : t.Inv := by
  rcases complete_cases ht with ⟨rs, f, c, x, y, hc, rfl⟩ | ⟨rs, f, rfl⟩ | ⟨v, _, rfl⟩
  · exact (h.dmaWriteAll rs f).raise (by simp [hb]) hc x y
  · exact (h.dmaWriteAll rs f).finishOk (by simp [hb])
  · obtain ⟨_, _, _, _, hpin, _⟩ := h.running hb
    exact (h.setPixOut hpin v).finishOk hb

theorem State.Inv.accept (h : s.Inv) (hr : s.resetPin = false) (c : Word) : (s.accept c).Inv :=
  { h with
    doneErr := by simp
    running := fun _ => ⟨rfl, rfl, rfl, rfl, hr, ⟨s.latch c, s.pixOut⟩, by simp, rfl⟩
    errHasCode := nofun
    doneNoCode := nofun
    noCodeNoArgs := fun _ => ⟨rfl, rfl⟩
    noReservedCode := ⟨nofun, nofun⟩
    inReset := by simp [hr] }

theorem State.Inv.writeCmd (h : s.Inv) (hr : s.resetPin = false) (c : Word) : (s.writeCmd c).Inv := by
  unfold State.writeCmd
  split
  · exact h.setDrop hr
  · exact h.accept hr c

theorem State.Inv.clearStatus (h : s.Inv) (hr : s.resetPin = false) (v : Word) : (s.clearStatus v).Inv := by
  have hdone (hd : (s.clearStatus v).done = true) : s.done = true := (Bool.and_eq_true_iff.mp hd).1
  have herr (he : (s.clearStatus v).err = true) : s.err = true := (Bool.and_eq_true_iff.mp he).1
  exact
    { h with
      doneErr := fun ⟨hd, he⟩ => h.doneErr ⟨hdone hd, herr he⟩
      running := fun hb => by
        obtain ⟨hd, he, hrest⟩ := h.running hb
        exact ⟨by simp [hd], by simp [he], hrest⟩
      errHasCode := fun he => h.errHasCode (herr he)
      doneNoCode := fun hd => h.doneNoCode (hdone hd)
      inReset := by simp [hr] }

theorem State.Inv.abort (h : s.Inv) : s.abort.Inv := by
  unfold State.abort
  split
  · exact h.dmaWriteAll _ _
  · exact h

/-- A reset establishes the CORE's part of the invariant, and keeps that of memory (R230, R231). -/
theorem State.Inv.resetCore (h : s.Inv) (level : Bool) : ({ s.resetCore with resetPin := level } : State).Inv :=
  { h.abort with
    doneErr := nofun
    running := nofun
    errHasCode := nofun
    doneNoCode := nofun
    noCodeNoArgs := fun _ => ⟨rfl, rfl⟩
    noReservedCode := ⟨nofun, nofun⟩
    inReset := fun _ => rfl }

theorem State.Inv.writeCsr (h : s.Inv) (hr : s.resetPin = false) (c : Csr) (v : Word) : (s.writeCsr c v).Inv := by
  rcases State.writeCsr_cases s c v with
    hw | ⟨n, hw⟩ | ⟨_, hw⟩ | ⟨_, hw⟩ | ⟨_, _, hw⟩ | ⟨_, _, hw⟩ <;> rw [hw]
  · exact h
  · exact h.withParams hr n
  · exact h.clearStatus hr v
  · exact h.writeCmd hr v
  · exact h.setIrqEn hr _
  · exact (h.setIrqEn hr _).resetCore _

theorem State.Inv.writeOffset (h : s.Inv) (hr : s.resetPin = false) (off : Nat) (v : Word) : (s.writeOffset off v).Inv := by
  rcases State.writeOffset_cases s off v with hw | ⟨c, _, hw⟩ <;> rw [hw]
  · exact h
  · exact h.writeCsr hr c v

theorem State.busy_eq_false_iff (s : State) : s.busy = false ↔ s.phase = .idle := by
  unfold State.busy
  split <;> simp [*]

theorem State.Inv.observeStatus (h : s.Inv) (off : Nat) : (s.observeStatus off).Inv := by
  rcases observeStatus_cases s off with ho | ⟨hb, ho⟩ <;> rw [ho]
  · exact h
  · exact h.observe ((State.busy_eq_false_iff s).mp hb)

/-- The interrupt output is high only while IDLE (R112, R210). -/
theorem State.Inv.idle_of_irq (h : s.Inv) (hirq : s.irq = true) : s.phase = .idle := by
  cases hp : s.phase with
  | idle => rfl
  | busy =>
    obtain ⟨hdone, herr, _⟩ := h.running hp
    simp [State.irq, hdone, herr] at hirq

theorem State.Inv.irqSample (h : s.Inv) : ({ s with unobserved := if s.irq then [] else s.unobserved } : State).Inv := by
  split
  · next hirq => exact h.observe (h.idle_of_irq hirq)
  · exact h

theorem State.Inv.markWrite (h : s.Inv) (ag : Agent) {a : Nat} (ha : a < memSize) : (s.markWrite ag a).Inv := by
  cases ag with
  | other => exact h
  | host =>
    cases hc : s.plat.dmaCoherent with
    | true => rwa [State.markWrite_of_unmarked (.inr hc)]
    | false =>
      rw [State.markWrite_host hc]
      exact h.setMemory h.memWf (AddrSet.wf_insert h.dirtyWf ha) (AddrSet.wf_dropRange h.staleWf a 1) (by simp [hc])

theorem State.Inv.memWrite (h : s.Inv) (ag : Agent) (a : Word) (v : Byte) :
    (({ s with mem := Memory.write s.mem a.toNat v } : State).markWrite ag a.toNat).Inv :=
  (h.setMemory (Memory.wf_write h.memWf v a.isLt) h.dirtyWf h.staleWf h.coherent).markWrite ag a.isLt

theorem State.Inv.cacheWriteBack (h : s.Inv) (r : AddrRange) :
    ({ s with dirty := AddrSet.dropRange s.dirty r.base r.len } : State).Inv :=
  h.setMemory h.memWf (AddrSet.wf_dropRange h.dirtyWf _ _) h.staleWf fun hc => by
    obtain ⟨hdirty, hstale⟩ := h.coherent hc
    exact ⟨by rw [hdirty]; rfl, hstale⟩

theorem State.Inv.cacheInvalidate (h : s.Inv) (r : AddrRange) :
    ({ s with
      mem := Memory.forget s.mem s.draws (s.dirtyIn r)
      dirty := AddrSet.dropRange s.dirty r.base r.len
      stale := AddrSet.dropRange s.stale r.base r.len } : State).Inv := by
  have hlost : ∀ a ∈ s.dirtyIn r, a < memSize := fun a ha => AddrSet.lt_of_wf h.dirtyWf (List.mem_of_mem_filter ha)
  refine h.setMemory (Memory.wf_forget h.memWf _ hlost) (AddrSet.wf_dropRange h.dirtyWf _ _)
    (AddrSet.wf_dropRange h.staleWf _ _) fun hc => ?_
  obtain ⟨hdirty, hstale⟩ := h.coherent hc
  rw [hdirty, hstale]
  exact ⟨rfl, rfl⟩

/-- The turn of every agent keeps the invariant. -/
theorem State.Inv.turn {t : State} (h : s.Inv) {e : Event} (ht : turn e s = .next t) : t.Inv := by
  cases e with
  | engine =>
    simp only [Machine.turn, engineTurn] at ht
    split at ht
    · next hb => exact h.complete hb ht
    · cases ht; exact h
  | csrRead addr w =>
    obtain ⟨off, _, ⟨_, rfl⟩ | ⟨_, _, rfl⟩ | ⟨_, _, rfl⟩⟩ := csrRead_cases ht
    · exact h.respond _
    · exact (h.observeStatus off).respond _
    · exact h.respond _
  | csrWrite addr w v =>
    obtain ⟨off, _, ⟨_, rfl⟩ | ⟨hr, _, _, rfl⟩ | ⟨_, _, rfl⟩⟩ := csrWrite_cases ht
    · exact h.respond _
    · exact (h.writeOffset hr off v).respond _
    · exact h.respond _
  | memRead ag a =>
    obtain ⟨_, rfl⟩ := memRead_cases ht
    exact h.respond _
  | memWrite ag a v =>
    obtain ⟨_, _, rfl⟩ := memWrite_cases ht
    exact (h.memWrite ag a v).respond _
  | cacheWriteBack r =>
    obtain rfl := cacheWriteBack_cases ht
    exact h.cacheWriteBack r
  | cacheInvalidate r => cases ht; exact h.cacheInvalidate r
  | irqSample => cases ht; exact h.irqSample.respond _
  | resetPin level =>
    obtain ⟨_, rfl⟩ := driveResetPin_cases ht
    exact h.resetCore level
  | busChange faults =>
    simp only [Machine.turn, busChange] at ht
    split at ht
    · cases ht; exact h
    · cases ht; exact h.setBusFaults faults

theorem State.Inv.quietTurn {t : State} (h : s.Inv) (ht : quietTurn s = .next t) : t.Inv := by
  unfold Machine.quietTurn at ht
  split at ht
  · next hb => exact h.tick.complete hb ht
  · cases ht; exact h

theorem State.Inv.step {t : State} (h : s.Inv) (ht : step s = .next t) : t.Inv := by
  cases hin : s.inputs with
  | nil => exact h.quietTurn (step_nil hin ▸ ht)
  | cons e rest => exact h.tick.turn (step_cons hin ▸ ht)

end invariant

/-- Settles O56: the turn of each agent keeps the invariant, by what each operation of the model does to it. -/
theorem stepKeepsTheInvariant : Obligations.StepKeepsTheInvariant := by
  unfold Obligations.StepKeepsTheInvariant
  intro s t h ht
  exact h.step ht


/-! ### What changes the phase and PIX_OUT (R37, R42) -/

@[simp] theorem State.markWrite_phase (s : State) (ag : Agent) (a : Nat) : (s.markWrite ag a).phase = s.phase := by
  unfold State.markWrite
  split
  · split <;> rfl
  · rfl

@[simp] theorem State.markWrite_pixOut (s : State) (ag : Agent) (a : Nat) : (s.markWrite ag a).pixOut = s.pixOut := by
  unfold State.markWrite
  split
  · split <;> rfl
  · rfl

@[simp] theorem State.observeStatus_phase (s : State) (off : Nat) : (s.observeStatus off).phase = s.phase := by
  rcases observeStatus_cases s off with h | ⟨_, h⟩ <;> rw [h]

@[simp] theorem State.observeStatus_pixOut (s : State) (off : Nat) : (s.observeStatus off).pixOut = s.pixOut := by
  rcases observeStatus_cases s off with h | ⟨_, h⟩ <;> rw [h]

/-- A write of CMD is dropped while BUSY and accepted while IDLE (R111, R112). -/
theorem State.writeCmd_cases (s : State) (c : Word) :
    s.phase = .busy ∧ s.writeCmd c = { s with drop := true } ∨ s.phase = .idle ∧ s.writeCmd c = s.accept c := by
  unfold State.writeCmd
  split
  · next hp => exact .inl ⟨hp, rfl⟩
  · next hp => exact .inr ⟨hp, rfl⟩

/-- How the turn of the agent that `e` names can lead from `s` to `t`, as far as the phase and PIX_OUT go. -/
inductive TurnEffect (e : Event) (s t : State) : Prop
  | kept (phase : t.phase = s.phase) (pixOut : t.pixOut = s.pixOut)
  | completed (event : e = .engine) (running : s.phase = .busy) (completion : complete s = .next t)
  | accepted (c : Word) (event : e = .csrWrite (s.plat.csrBase + 0x10) .w32 c) (idle : s.phase = .idle)
      (next : t = (s.accept c).respond .writeOk)
  | softReset (v : Word) (event : e = .csrWrite (s.plat.csrBase + 0x08) .w32 v) (bit : v.getLsbD 1 = true)
      (idle : t.phase = .idle)
  | hardReset (level : Bool) (event : e = .resetPin level) (idle : t.phase = .idle)

theorem windowOffset_some {base addr off : Nat} (h : windowOffset base addr = some off) : addr = base + off := by
  unfold windowOffset at h
  split at h
  · cases h; omega
  · cases h

theorem width_of_csrAccessOk {off : Nat} {w : Width} (h : csrAccessOk off w = true) : w = .w32 := by
  simp only [csrAccessOk, Bool.and_eq_true, decide_eq_true_eq] at h
  exact h.1

theorem csrWrite_effect {addr : Nat} {w : Width} {v : Word} {s t : State} (h : csrWrite addr w v s = .next t) :
    TurnEffect (.csrWrite addr w v) s t := by
  obtain ⟨off, hoff, ⟨_, rfl⟩ | ⟨_, hok, _, rfl⟩ | ⟨_, _, rfl⟩⟩ := csrWrite_cases h
  · exact .kept rfl rfl
  · obtain rfl := windowOffset_some hoff
    obtain rfl := width_of_csrAccessOk hok
    rcases State.writeOffset_cases s off v with hw | ⟨c, rfl, hw⟩
    · rw [hw]; exact .kept rfl rfl
    rw [hw]
    rcases State.writeCsr_cases s c v with hw | ⟨n, hw⟩ | ⟨_, hw⟩ | ⟨rfl, hw⟩ | ⟨_, _, hw⟩ | ⟨rfl, hv, hw⟩ <;> rw [hw]
    · exact .kept rfl rfl
    · exact .kept rfl rfl
    · exact .kept rfl rfl
    · rcases State.writeCmd_cases s v with ⟨_, hc⟩ | ⟨hidle, hc⟩ <;> rw [hc]
      · exact .kept rfl rfl
      · exact .accepted v rfl hidle rfl
    · exact .kept rfl rfl
    · exact .softReset v rfl hv rfl
  · exact .kept rfl rfl

theorem turn_effect {e : Event} {s t : State} (h : turn e s = .next t) : TurnEffect e s t := by
  cases e with
  | engine =>
    simp only [turn, engineTurn] at h
    split at h
    · next hp => exact .completed rfl hp h
    · cases h; exact .kept rfl rfl
  | csrRead addr w =>
    obtain ⟨off, _, ⟨_, rfl⟩ | ⟨_, _, rfl⟩ | ⟨_, _, rfl⟩⟩ := csrRead_cases h
    · exact .kept rfl rfl
    · exact .kept (by simp) (by simp)
    · exact .kept rfl rfl
  | csrWrite addr w v => exact csrWrite_effect h
  | memRead ag a =>
    obtain ⟨_, rfl⟩ := memRead_cases h
    exact .kept rfl rfl
  | memWrite ag a v =>
    obtain ⟨_, _, rfl⟩ := memWrite_cases h
    exact .kept (by simp) (by simp)
  | cacheWriteBack r =>
    obtain rfl := cacheWriteBack_cases h
    exact .kept rfl rfl
  | cacheInvalidate r => cases h; exact .kept rfl rfl
  | irqSample => cases h; exact .kept rfl rfl
  | resetPin level =>
    obtain ⟨_, rfl⟩ := driveResetPin_cases h
    exact .hardReset level rfl rfl
  | busChange faults =>
    simp only [turn, busChange] at h
    split at h
    · cases h; exact .kept rfl rfl
    · cases h; exact .kept rfl rfl

/-- A step without an event completes the running command, as the engine's turn does, or changes nothing (R233, R246). -/
theorem quietTurn_effect {s t : State} (h : quietTurn s = .next t) : TurnEffect .engine s.tick t := by
  unfold quietTurn at h
  split at h
  · next hp => exact .completed rfl hp h
  · cases h; exact .kept rfl rfl

/-- The agent whose turn comes in `s`: the next one listed, or else the engine. -/
def State.nextEvent (s : State) : Event := s.inputs.headD .engine

theorem step_effect {s t : State} (h : step s = .next t) : TurnEffect s.nextEvent s.tick t := by
  unfold State.nextEvent
  cases hin : s.inputs with
  | nil => exact quietTurn_effect (step_nil hin ▸ h)
  | cons e rest => exact turn_effect (step_cons hin ▸ h)

theorem State.inputs_of_nextEvent {s : State} {e : Event} (h : s.nextEvent = e) (he : e ≠ .engine) :
    ∃ rest, s.inputs = e :: rest := by
  unfold State.nextEvent at h
  cases hin : s.inputs with
  | nil => rw [hin] at h; exact absurd h.symm he
  | cons e' rest => rw [hin] at h; exact ⟨rest, congrArg (· :: rest) h⟩

theorem State.inputs_of_nextEvent_engine {s : State} (h : s.nextEvent = .engine) :
    s.inputs = [] ∨ ∃ rest, s.inputs = .engine :: rest := by
  unfold State.nextEvent at h
  cases hin : s.inputs with
  | nil => exact .inl rfl
  | cons e rest => rw [hin] at h; exact .inr ⟨rest, congrArg (· :: rest) h⟩

/-- A completion changes PIX_OUT only as the success of a pixel command (R37, R120). -/
theorem complete_pixOut {s t : State} (h : complete s = .next t) :
    t.pixOut = s.pixOut ∨ (s.snap.cmd = encode .pixRgb2yuv ∨ s.snap.cmd = encode .pixYuv2rgb) ∧ t.done = true := by
  rcases complete_cases h with ⟨rs, f, c, x, y, _, rfl⟩ | ⟨rs, f, rfl⟩ | ⟨v, hpix, rfl⟩
  · exact .inl (by simp)
  · exact .inl (by simp)
  · exact .inr ⟨hpix, rfl⟩

/-- Settles O48: of the effects that a step can have, a completion, a soft and a hardware reset are those that touch PIX_OUT. -/
theorem onlyPixelCommandsAndResetChangePixOut : Obligations.OnlyPixelCommandsAndResetChangePixOut := by
  unfold Obligations.OnlyPixelCommandsAndResetChangePixOut
  intro s t h hne
  cases step_effect h with
  | kept _ hpix => exact absurd hpix hne
  | completed _ hbusy hcomplete =>
    rcases complete_pixOut hcomplete with hpix | ⟨hcmd, hdone⟩
    · exact absurd hpix hne
    · exact .inl ⟨hbusy, hcmd, hdone⟩
  | accepted c _ _ hnext => subst hnext; exact absurd rfl hne
  | softReset v he hbit =>
    obtain ⟨rest, hin⟩ := State.inputs_of_nextEvent he nofun
    exact .inr (.inr ⟨v, rest, hin, hbit⟩)
  | hardReset level he =>
    obtain ⟨rest, hin⟩ := State.inputs_of_nextEvent he nofun
    exact .inr (.inl ⟨level, rest, hin⟩)

/-- Settles O49: of the effects that a step can have, an acceptance alone leads to BUSY, and a completion or a reset alone to IDLE. -/
theorem onlyCmdWritesStartACommand : Obligations.OnlyCmdWritesStartACommand := by
  unfold Obligations.OnlyCmdWritesStartACommand
  intro s t h
  cases step_effect h with
  | kept hphase =>
    have hsame : t.phase = s.phase := hphase
    exact ⟨fun hi hb => by simp [hsame, hi] at hb, fun hb hi => by simp [hsame, hb] at hi⟩
  | completed he hbusy =>
    refine ⟨fun hi => absurd (hbusy.symm.trans hi) nofun, fun _ _ => ?_⟩
    rcases State.inputs_of_nextEvent_engine he with hin | hin
    · exact .inl hin
    · exact .inr (.inl hin)
  | accepted c he hidle hnext =>
    subst hnext
    obtain ⟨rest, hin⟩ := State.inputs_of_nextEvent he nofun
    exact ⟨fun _ _ => ⟨c, rest, hin, rfl, rfl⟩, nofun⟩
  | softReset v he hbit hidle =>
    obtain ⟨rest, hin⟩ := State.inputs_of_nextEvent he nofun
    exact ⟨fun _ hb => absurd (hidle.symm.trans hb) nofun, fun _ _ => .inr (.inr (.inr ⟨v, rest, hin, hbit⟩))⟩
  | hardReset level he hidle =>
    obtain ⟨rest, hin⟩ := State.inputs_of_nextEvent he nofun
    exact ⟨fun _ hb => absurd (hidle.symm.trans hb) nofun, fun _ _ => .inr (.inr (.inl ⟨level, rest, hin⟩))⟩

/-! ### The host's CSR accesses (R20 to R41) -/

theorem csrAccessOk_aligned {off : Nat} (h : off % 4 = 0) : csrAccessOk off .w32 = true := by simp [csrAccessOk, h]

theorem csrAccessOk_eq_false {off : Nat} {w : Width} (h : w ≠ .w32 ∨ off % 4 ≠ 0) : csrAccessOk off w = false := by
  rw [csrAccessOk, Bool.and_eq_false_iff]
  exact h.imp decide_eq_false decide_eq_false

theorem csrOffset_inj {c d : Csr} : csrOffset c = csrOffset d ↔ c = d := by
  refine ⟨fun h => ?_, congrArg csrOffset⟩
  have hat := congrArg csrAt h
  rwa [csrAt_csrOffset, csrAt_csrOffset, Option.some.injEq] at hat

/-- A read elsewhere than at STATUS changes nothing. -/
theorem State.observeStatus_of_ne (s : State) {off : Nat} (h : off ≠ csrOffset .status) : s.observeStatus off = s := by
  unfold State.observeStatus
  split
  · next hc => exact absurd (csrAt_some hc) h
  · rfl

theorem State.observeStatus_status (s : State) :
    s.observeStatus (csrOffset .status) = { s with unobserved := if s.phase = .idle then [] else s.unobserved } := by
  rw [State.observeStatus, csrAt_csrOffset]
  dsimp only
  split
  · next hb =>
    rw [if_neg]
    exact fun hp => Bool.false_ne_true (((State.busy_eq_false_iff s).mpr hp).symm.trans hb)
  · next hb =>
    rw [if_pos]
    exact (State.busy_eq_false_iff s).mp (Bool.eq_false_iff.mpr hb)

/-- A step that only answers the agent whose event it takes. -/
theorem State.tick_respond {s : State} {e : Event} {rest : List Event} (h : s.inputs = e :: rest) (r : Response) :
    s.tick.respond r = { s with inputs := rest, draws := s.draws + 1, responses := r :: s.responses } := by
  simp [State.tick, State.respond, h]

/-- A 32-bit read at an aligned offset, defined or reserved. -/
theorem step_csrRead_aligned {s : State} {off : Nat} {rest : List Event}
    (h : s.inputs = .csrRead (s.plat.csrBase + off) .w32 :: rest) (hr : s.resetPin = false) (hoff : off < 256)
    (halign : off % 4 = 0) : step s = .next ((s.tick.observeStatus off).respond (.readData (s.tick.readOffset off))) := by
  rw [step_cons h]
  simp [turn, csrRead, hr, hoff, csrAccessOk_aligned halign]

/-- A 32-bit write at an aligned offset, defined or reserved, other than a soft reset that faults. -/
theorem step_csrWrite_aligned {s : State} {off : Nat} {v : Word} {rest : List Event}
    (h : s.inputs = .csrWrite (s.plat.csrBase + off) .w32 v :: rest) (hr : s.resetPin = false) (hoff : off < 256)
    (halign : off % 4 = 0) (hreset : softResets off v = false) :
    step s = .next ((s.tick.writeOffset off v).respond .writeOk) := by
  rw [step_cons h]
  simp [turn, csrWrite, hr, hoff, csrAccessOk_aligned halign, hreset]

/-- Settles O42: the access is in the window and not one that a CSR's own rule answers. -/
theorem otherCsrAccessesGetABusError : Obligations.OtherCsrAccessesGetABusError := by
  unfold Obligations.OtherCsrAccessesGetABusError
  intro s off w v rest hoff hr hbad
  have hok := csrAccessOk_eq_false hbad
  refine ⟨fun hin => ?_, fun hin => ?_⟩ <;> rw [step_cons hin, ← State.tick_respond hin]
  · simp [turn, csrRead, hr, hoff, hok]
  · simp [turn, csrWrite, hr, hoff, hok]

/-! ### STATUS (R25, R26) -/

/-- STATUS bit by bit. -/
theorem State.statusWord_getLsbD (s : State) (k : Nat) :
    s.statusWord.getLsbD k =
      if k = 0 then s.busy else if k = 1 then s.done else if k = 2 then s.err else if k = 3 then s.drop else false := by
  simp only [State.statusWord, BitVec.getLsbD_append, BitVec.getLsbD_ofBool, BitVec.getLsbD_zero]
  rcases k with _ | _ | _ | _ | k
  · simp
  · simp
  · simp
  · simp
  · simp

theorem State.statusWord_getLsbD_zero_iff (s : State) : s.statusWord.getLsbD 0 = true ↔ s.phase = .busy := by
  rw [State.statusWord_getLsbD, if_pos rfl]
  cases hp : s.phase <;> simp [State.busy, hp]

theorem State.statusWord_getLsbD_of_four_le (s : State) {k : Nat} (hk : 4 ≤ k) : s.statusWord.getLsbD k = false := by
  rw [State.statusWord_getLsbD, if_neg (by omega), if_neg (by omega), if_neg (by omega), if_neg (by omega)]

theorem State.clearStatus_eq (s : State) (v : Word) :
    s.clearStatus v =
      { s with
        done := if v.getLsbD 1 then false else s.done
        err := if v.getLsbD 2 then false else s.err
        drop := if v.getLsbD 3 then false else s.drop } := by
  have hclear (a b : Bool) : (a && !b) = if b then false else a := by cases b <;> simp
  simp only [State.clearStatus, hclear]

/-- Settles O43: STATUS is read bit by bit, and a write clears the flags whose bits it gives. -/
theorem statusShowsTheFlagsAndClearsThem : Obligations.StatusShowsTheFlagsAndClearsThem := by
  unfold Obligations.StatusShowsTheFlagsAndClearsThem
  refine ⟨fun s rest hr hin => ⟨s.statusWord, ?_, s.statusWord_getLsbD_zero_iff, s.statusWord_getLsbD 1,
    s.statusWord_getLsbD 2, s.statusWord_getLsbD 3, fun k => s.statusWord_getLsbD_of_four_le⟩, fun s v rest hr hin => ?_⟩
  · have hvalue : s.tick.csrValue .status = s.statusWord := rfl
    rw [step_csrRead .status hin hr, State.observeStatus_status, hvalue]
    simp [State.tick, State.respond, hin]
  · rw [step_csrWrite .status v hin hr nofun, State.writeCsr, State.clearStatus_eq]
    simp [State.tick, State.respond, hin]

/-! ### Parameter CSRs (R31 to R36, R40) -/

/-- What a CSR holds does not depend on the answers given. -/
@[simp] theorem State.csrValue_respond (s : State) (r : Response) (c : Csr) : (s.respond r).csrValue c = s.csrValue c := by
  cases c <;> rfl

/-- Of the values read, that of PIX_OUT alone depends on the number of the step. -/
theorem State.csrValue_tick (s : State) {c : Csr} (h : c ≠ .pixOut) : s.tick.csrValue c = s.csrValue c := by
  cases c with
  | pixOut => exact absurd rfl h
  | _ => rfl

/-- Narrowed to a field and zero-extended again, a word keeps the bits of the field. -/
theorem setWidth_setWidth_eq_and (v : Word) {w : Nat} (hw : w ≤ 32) :
    (v.setWidth w).setWidth 32 = v &&& BitVec.ofNat 32 (2 ^ w - 1) := by
  have hpow : 2 ^ w ≤ 2 ^ 32 := Nat.pow_le_pow_right (by omega) hw
  have hmask : (2 ^ w - 1) % 2 ^ 32 = 2 ^ w - 1 := Nat.mod_eq_of_lt (by omega)
  have hlt : v.toNat % 2 ^ w < 2 ^ 32 := (Nat.mod_lt _ (Nat.two_pow_pos w)).trans_le hpow
  apply BitVec.eq_of_toNat_eq
  rw [BitVec.toNat_and, BitVec.toNat_ofNat, hmask, Nat.and_two_pow_sub_one_eq_mod, BitVec.toNat_setWidth,
    BitVec.toNat_setWidth, Nat.mod_eq_of_lt hlt]

/-- A parameter CSR holds what was written, without its reserved bits. -/
theorem State.csrValue_writeCsr_self (s : State) {c : Csr} (h : Csr.isParameter c = true) (v : Word) :
    (s.writeCsr c v).csrValue c = v &&& Csr.writable c := by
  cases c with
  | width | height => exact setWidth_setWidth_eq_and v (w := 15) (by omega)
  | pixIn => exact setWidth_setWidth_eq_and v (w := 24) (by omega)
  | srcLen | src0Addr | src1Addr | src2Addr | dst0Addr | dst1Addr | dst2Addr => exact BitVec.and_allOnes.symm
  | _ => cases h

/-- A write to a parameter CSR leaves every other CSR alone. -/
theorem State.csrValue_writeCsr_ne (s : State) {c d : Csr} (h : Csr.isParameter c = true) (hd : d ≠ c) (v : Word) :
    (s.writeCsr c v).csrValue d = s.csrValue d := by
  cases c with
  | width | height | srcLen | src0Addr | src1Addr | src2Addr | dst0Addr | dst1Addr | dst2Addr | pixIn =>
    cases d <;> first | rfl | exact absurd rfl hd
  | _ => cases h

/-- A read of a CSR other than STATUS and PIX_OUT answers what it holds. -/
theorem step_csrRead_value {s : State} {c : Csr} {rest : List Event}
    (h : s.inputs = .csrRead (s.plat.csrBase + csrOffset c) .w32 :: rest) (hr : s.resetPin = false)
    (hstatus : c ≠ .status) (hpix : c ≠ .pixOut) : step s = .next (s.tick.respond (.readData (s.csrValue c))) := by
  rw [step_csrRead c h hr, State.observeStatus_of_ne _ (mt csrOffset_inj.mp hstatus), State.csrValue_tick s hpix]

/-- Settles O40: the write replaces parameter CSRs alone, the one written holds the value, and a read answers it. -/
theorem parameterWriteChangesThatRegisterAlone : Obligations.ParameterWriteChangesThatRegisterAlone := by
  unfold Obligations.ParameterWriteChangesThatRegisterAlone
  intro s c v rest hc hr hin
  have hctrl : c ≠ .ctrl := by rintro rfl; cases hc
  have hstatus : c ≠ .status := by rintro rfl; cases hc
  have hpix : c ≠ .pixOut := by rintro rfl; cases hc
  have hself : ((s.tick.writeCsr c v).respond .writeOk).csrValue c = v &&& Csr.writable c := by
    rw [State.csrValue_respond, State.csrValue_writeCsr_self _ hc]
  have hother (d : Csr) (hd : d ≠ c) (hdpix : d ≠ .pixOut) :
      ((s.tick.writeCsr c v).respond .writeOk).csrValue d = s.csrValue d := by
    rw [State.csrValue_respond, State.csrValue_writeCsr_ne _ hc hd, State.csrValue_tick s hdpix]
  refine ⟨_, step_csrWrite c v hin hr fun h => absurd h hctrl, hself, hother, ?_⟩
  rw [State.writeCsr_parameter s.tick hc] at hself ⊢
  refine ⟨rfl, rfl, rfl, rfl, rfl, rfl, rfl, rfl, rfl, congrArg List.tail hin, fun rest' hrest => ?_⟩
  have hin' : s.tick.inputs = .csrRead (s.plat.csrBase + csrOffset c) .w32 :: rest' :=
    (congrArg List.tail hin).trans hrest
  refine ⟨_, step_csrRead_value hin' hr hstatus hpix, ?_⟩
  rw [hself]
  rfl

/-! ### Reserved offsets and read-only CSRs (R38, R39) -/

/-- A write is ignored at an offset that no writable CSR has. -/
theorem State.writeOffset_of_not_writable (s : State) {off : Nat}
    (h : off ∉ [0x08, 0x0C, 0x10, 0x20, 0x24, 0x28, 0x30, 0x34, 0x38, 0x40, 0x44, 0x48, 0x50]) (v : Word) :
    s.writeOffset off v = s := by
  rcases State.writeOffset_cases s off v with hw | ⟨c, rfl, hw⟩
  · exact hw
  rw [hw]
  cases c with
  | id | version | errCode | errArg0 | errArg1 | pixOut => rfl
  | _ => exact absurd (by decide) h

/-- The offsets of R38 are no CSR's. -/
theorem csrAt_reserved {off : Nat} (h : off = 0x2C ∨ off = 0x3C ∨ off = 0x4C ∨ 0x58 ≤ off) : csrAt off = none := by
  have hfree : ∀ c, csrOffset c ≠ 0x2C ∧ csrOffset c ≠ 0x3C ∧ csrOffset c ≠ 0x4C ∧ csrOffset c < 0x58 := by
    intro c; cases c <;> decide
  cases hc : csrAt off with
  | none => rfl
  | some c =>
    obtain rfl := csrAt_some hc
    have := hfree c
    omega

theorem softResets_of_ne {off : Nat} (h : off ≠ 0x08) (v : Word) : softResets off v = false := by
  rw [softResets, Bool.and_eq_false_iff]
  exact .inl (decide_eq_false fun hc => h (csrAt_some hc))

@[simp] theorem State.readOffset_csrOffset (s : State) (c : Csr) : s.readOffset (csrOffset c) = s.csrValue c := by
  rw [State.readOffset, csrAt_csrOffset]

theorem State.readOffset_reserved (s : State) {off : Nat} (h : off = 0x2C ∨ off = 0x3C ∨ off = 0x4C ∨ 0x58 ≤ off) :
    s.readOffset off = 0#32 := by
  rw [State.readOffset, csrAt_reserved h]

theorem State.ctrlWord_eq (s : State) : s.ctrlWord = if s.irqEn then 1#32 else 0#32 := by
  cases h : s.irqEn <;> rw [State.ctrlWord, h] <;> rfl

/-- Settles O41: a write there is ignored by the CSR map, and a read answers what the map gives at its offset. -/
theorem reservedAndReadOnlyCsrs : Obligations.ReservedAndReadOnlyCsrs := by
  unfold Obligations.ReservedAndReadOnlyCsrs
  intro s off rest hoff halign hr
  constructor
  · intro hro v hin
    have hctrl : off ≠ 0x08 := by rintro rfl; exact hro (by decide)
    rw [step_csrWrite_aligned hin hr hoff halign (softResets_of_ne hctrl v), State.writeOffset_of_not_writable _ hro,
      State.tick_respond hin]
  · intro hin hstatus hpix
    have hcsr (c : Csr) (h : off = csrOffset c) : s.tick.readOffset off = s.tick.csrValue c := by
      rw [h, State.readOffset_csrOffset]
    refine ⟨s.tick.readOffset off, ?_, State.readOffset_reserved _, hcsr .id, hcsr .version,
      fun h => (hcsr .ctrl h).trans s.ctrlWord_eq, hcsr .cmd, fun h => (hcsr .errCode h).trans ?_, hcsr .errArg0,
      hcsr .errArg1, fun h => (congrArg BitVec.toNat (hcsr .width h)).trans (BitVec.toNat_setWidth_of_le (by omega)),
      fun h => (congrArg BitVec.toNat (hcsr .height h)).trans (BitVec.toNat_setWidth_of_le (by omega)), hcsr .srcLen,
      hcsr .src0Addr, hcsr .src1Addr, hcsr .src2Addr, hcsr .dst0Addr, hcsr .dst1Addr, hcsr .dst2Addr,
      fun h => (congrArg BitVec.toNat (hcsr .pixIn h)).trans (BitVec.toNat_setWidth_of_le (by omega))⟩
    · rw [step_csrRead_aligned hin hr hoff halign, State.observeStatus_of_ne _ hstatus, State.tick_respond hin]
    · change s.errCodeWord = _
      cases hcode : s.errCode <;> rw [State.errCodeWord, hcode] <;> rfl

/-! ### CTRL (R23, R24, R230 to R232) -/

theorem State.abort_of_idle {s : State} (h : s.phase = .idle) : s.abort = s := by rw [State.abort, h]

/-- An abort changes bytes of the running command's destination regions alone (R231). -/
theorem State.read_abort_out (s : State) {a : Nat}
    (h : ∀ r ∈ inFlight s.snap, r.slot.isDst = true → Region.has r a = false) :
    Memory.read s.abort.mem a = Memory.read s.mem a := by
  unfold State.abort
  split
  · exact State.read_dmaWriteAll_out s _ _ fun r hr hd => by simp [h r hr hd]
  · rfl

/-- In the reset state every CSR reads its reset value. -/
theorem State.csrValue_coreReset (s : State) (p : Platform) (c : Csr) :
    s.coreReset.csrValue c = (State.resetOn p).csrValue c := by
  cases c <;> rfl

/-- Settles O44: without SOFT_RESET the write is IRQ_EN's alone; with it the step is the abort and the reset of the CORE. -/
theorem ctrlWriteSetsIrqEnOrResets : Obligations.CtrlWriteSetsIrqEnOrResets := by
  unfold Obligations.CtrlWriteSetsIrqEnOrResets
  intro s v rest hr hin
  refine ⟨fun hv => ?_, fun hv hfault => step_softReset_fault hin hr hv ((abortFaults_iff s).mpr hfault), fun hv hfault => ?_⟩
  · have hno : ¬v.getLsbD 1 = true := by rw [hv]; exact Bool.false_ne_true
    rw [step_csrWrite .ctrl v hin hr fun _ h => absurd h hno, State.writeCsr, if_neg hno]
    simp [State.tick, State.respond, hin]
  · have hf : s.abortFaults = false := by rwa [← Bool.not_eq_true, abortFaults_iff]
    rw [step_csrWrite .ctrl v hin hr fun _ _ => hf, State.writeCsr, if_pos hv]
    refine ⟨_, rfl, fun c => ?_, rfl, rfl, rfl, ?_, ?_, ?_, ?_, fun hidle => ?_, fun a ha => ?_⟩
    · rw [State.csrValue_respond]
      exact State.csrValue_coreReset _ _ c
    · simp
    · simpa [State.resetCore] using hr
    · simp [State.resetCore, hin]
    · simp [State.resetCore]
    · rw [State.resetCore, State.abort_of_idle]
      · exact ⟨rfl, rfl, rfl⟩
      · exact hidle
    · exact State.read_abort_out _ ha

/-! ### PIX_OUT read early (R37, R243) -/

/-- A read of PIX_OUT answers one of the values it may. -/
theorem State.pixOutRead_mem (s : State) : s.pixOutRead ∈ s.pixOutValues := by
  unfold State.pixOutRead
  split
  · next h => simp [State.pixOutValues] at h
  · next h => simp [h]
  · next h =>
    rw [h, List.getD_eq_getElem?_getD, List.getElem?_eq_getElem (Nat.mod_lt _ (by simp))]
    exact List.getElem_mem _

theorem State.mem_pixOutValues {s : State} {x : Pix} (h : x ∈ s.pixOutValues) :
    x = s.pixOut ∨ x ∈ s.runningPixel ∨ ∃ p ∈ s.unobserved, p.snap.isPixel = true ∧ x = p.pixBefore := by
  simp only [State.pixOutValues, List.mem_cons, List.mem_append, List.mem_map, List.mem_filter] at h
  obtain h | h | ⟨p, ⟨hp, hpix⟩, rfl⟩ := h
  · exact .inl h
  · exact .inr (.inl h)
  · exact .inr (.inr ⟨p, hp, hpix, rfl⟩)

theorem Snap.isPixel_of_rgb2yuv {n : Snap} (h : n.cmd = encode .pixRgb2yuv) : n.isPixel = true := by simp [Snap.isPixel, h]
theorem Snap.isPixel_of_yuv2rgb {n : Snap} (h : n.cmd = encode .pixYuv2rgb) : n.isPixel = true := by simp [Snap.isPixel, h]

/-- The running pixel command's result is what its completion writes (R120, R152, R153). -/
theorem State.mem_runningPixel {s : State} {x : Pix} (h : x ∈ s.runningPixel) :
    s.phase = .busy ∧ s.snap.isPixel = true ∧ ∃ t, complete s = .next t ∧ x = t.pixOut := by
  unfold State.runningPixel at h
  split at h
  · cases h
  · next hb =>
    split at h
    · next hc =>
      obtain rfl := List.mem_singleton.mp h
      have hdec : decode s.snap.cmd = .ok .pixRgb2yuv := by rw [hc]; rfl
      exact ⟨hb, Snap.isPixel_of_rgb2yuv hc, _, by rw [complete, hdec]; rfl, rfl⟩
    · split at h
      · next hc =>
        obtain rfl := List.mem_singleton.mp h
        have hdec : decode s.snap.cmd = .ok .pixYuv2rgb := by rw [hc]; rfl
        exact ⟨hb, Snap.isPixel_of_yuv2rgb hc, _, by rw [complete, hdec]; rfl, rfl⟩
      · cases h

/-- Settles O54: the value read is one of `pixOutValues`, each of which is the one held, an old one or the running command's. -/
theorem pixOutReadsOldOrNew : Obligations.PixOutReadsOldOrNew := by
  unfold Obligations.PixOutReadsOldOrNew
  intro s rest hr hin
  have hread : step s = .next (s.tick.respond (.readData (s.tick.pixOutRead.setWidth 32))) :=
    step_csrRead .pixOut hin hr
  have hvalues : s.tick.pixOutRead ∈ s.pixOutValues := s.tick.pixOutRead_mem
  refine ⟨s.tick.pixOutRead, by rw [hread, State.tick_respond hin], ?_, ?_⟩
  · intro hun hrun
    obtain h | h | ⟨p, hp, hpix, _⟩ := State.mem_pixOutValues hvalues
    · exact h
    · obtain ⟨hb, hpix, _⟩ := State.mem_runningPixel h
      exact absurd (hpix.symm.trans (hrun hb)) nofun
    · exact absurd (hpix.symm.trans (hun p hp)) nofun
  · obtain h | h | h := State.mem_pixOutValues hvalues
    · exact .inl h
    · obtain ⟨hb, _, hnew⟩ := State.mem_runningPixel h
      exact .inr (.inr ⟨hb, hnew⟩)
    · exact .inr (.inl h)

end Sys2Proof.Machine
end

section
/-! PROOFS. The family 20_memory.md: what a command may do to memory (R65, R69), what its outcome depends on (R68, R124), and what the
accesses of the DMA and of the host see, with their cache maintenance (R76, R78). -/

namespace Sys2Proof.Machine

/-! ### Errors (R69, R121) -/

/-- Settles O17: of the ways a command can end, success leaves ERR clear, and an error other than IO is raised with no write before it. -/
theorem errorsButIoLeaveMemory : Obligations.ErrorsButIoLeaveMemory := by
  unfold Obligations.ErrorsButIoLeaveMemory
  intro i s t herr _ h hterr hio
  obtain ⟨c, x, y, ⟨_, rfl⟩ | ⟨rfl, rfl⟩, _⟩ | ⟨f, rfl⟩ | ⟨v, _, rfl⟩ := exec_cases h
  · exact ⟨rfl, rfl, rfl, rfl, rfl⟩
  · exact absurd rfl hio
  · simp [herr] at hterr
  · simp [herr] at hterr

/-! ### What accesses see (R68, R76, R78) -/

/-- The DMA reads memory at a byte that the host has written back. -/
theorem State.sourceByte_of_clean (s : State) (r : Slot) {k : Nat}
    (h : AddrSet.has s.dirty ((s.snap.addr r).toNat + k) = false) :
    s.sourceByte r k = Memory.read s.mem ((s.snap.addr r).toNat + k) := by
  simp [State.sourceByte, h]

/-- An agent outside reads memory at a byte that is not stale. -/
theorem State.outsideByte_of_fresh (s : State) (ag : Agent) {a : Nat} (h : AddrSet.has s.stale a = false) :
    s.outsideByte ag a = Memory.read s.mem a := by
  cases ag with
  | host => simp [State.outsideByte, h]
  | other => rfl

/-- Settles O52: with a coherent DMA the invariant leaves no byte marked, and without a mark an access reads memory. -/
theorem accessesSeeMemory : Obligations.AccessesSeeMemory := by
  unfold Obligations.AccessesSeeMemory
  intro s
  refine ⟨fun hinv hc => ?_, fun r k => s.sourceByte_of_clean r, fun ag a => s.outsideByte_of_fresh ag⟩
  obtain ⟨hdirty, hstale⟩ := hinv.coherent hc
  have hclean (r : Slot) (k : Nat) : s.sourceByte r k = Memory.read s.mem ((s.snap.addr r).toNat + k) :=
    s.sourceByte_of_clean r (by rw [hdirty, AddrSet.has_nil])
  exact ⟨fun ag a => s.outsideByte_of_fresh ag (by rw [hstale, AddrSet.has_nil]),
    fun k => ⟨hclean .src0 k, hclean .src1 k, hclean .src2 k⟩⟩

/-! ### Cache maintenance (R78) -/

/-- The elements that dropping a range leaves. -/
theorem AddrSet.has_dropRange_range (s : AddrSet) (r : AddrRange) (a : Nat) :
    AddrSet.has (AddrSet.dropRange s r.base r.len) a = (AddrSet.has s a && !AddrRange.has r a) :=
  AddrSet.has_dropRange s r.base r.len a

theorem State.not_mem_dirtyIn {s : State} {a : Nat} (h : AddrSet.has s.dirty a = false) (r : AddrRange) :
    a ∉ s.dirtyIn r := by
  intro ha
  have hd := (AddrSet.has_iff_mem s.dirty a).mpr (List.mem_of_mem_filter ha)
  exact Bool.false_ne_true (h.symm.trans hd)

/-- Settles O53: both take the range out of the marks; an invalidation writes the unwritten bytes of the range alone. -/
theorem cacheMaintenanceRestoresTheView : Obligations.CacheMaintenanceRestoresTheView := by
  unfold Obligations.CacheMaintenanceRestoresTheView
  intro s t r rest h
  refine ⟨fun hin => ?_, fun hin => ?_⟩ <;> rw [step_cons hin] at h
  · obtain rfl := cacheWriteBack_cases h
    exact ⟨rfl, rfl, fun a => AddrSet.has_dropRange_range s.dirty r a⟩
  · cases h
    refine ⟨fun a ha => ?_, fun a ha => Memory.read_forget_out _ _ _ (State.not_mem_dirtyIn ha r)⟩
    have hdropped (m : AddrSet) : AddrSet.has (AddrSet.dropRange m r.base r.len) a = false := by
      rw [AddrSet.has_dropRange_range, ha, Bool.not_true, Bool.and_false]
    exact ⟨hdropped _, hdropped _, State.outsideByte_of_fresh _ .host (hdropped _)⟩

/-! ### Memory with side effects (R65) -/

theorem touchesDevice_iff (p : Platform) (rs : List Region) :
    touchesDevice p rs = true ↔ ∃ r ∈ rs, ∃ a, Region.has r a = true ∧ isDevice p a = true := by
  rw [← Bool.not_eq_false, touchesDevice_false_iff]
  simp

/-- A memory command whose validation passes faults the run on memory with side effects (log 13). -/
theorem memoryCommand_device {i : Instr} {l : Bool} (out : Produce) {s : State} (hv : validate i l s.snap = none)
    (hdev : touchesDevice s.plat (regions i s.snap) = true) : memoryCommand i l out s = .fault .deviceRegion := by
  simp [memoryCommand, hv, hdev]

/-- A memory command whose validation passes ends with IO on a bus error (R123, R206). -/
theorem memoryCommand_io {i : Instr} {l : Bool} (out : Produce) {s : State} (hv : validate i l s.snap = none)
    (hdev : touchesDevice s.plat (regions i s.snap) = false) {a : Nat} {d : Dir}
    (hbad : pickBad s.draws (badAccesses s.plat (regions i s.snap)) = some (a, d)) :
    memoryCommand i l out s =
      .next ((s.scramble (regions i s.snap)).raise .io (BitVec.ofNat 32 a) (dirCode d)) := by
  simp [memoryCommand, hv, hdev, hbad]

/-- The checks 1 to 5 of R114 pass, so that the command makes DMA accesses, and one of them is to memory with side effects (R65). -/
def ReachesDevice (i : Instr) (s : State) : Prop :=
  validate i (Instr.checksLength i) s.snap = none ∧ touchesDevice s.plat (regions i s.snap) = true

/-- A completion faults the run on memory with side effects, and otherwise answers a next state. -/
theorem exec_fault_or_next (i : Instr) (s : State) :
    ReachesDevice i s ∧ exec i s = .fault .deviceRegion ∨ ¬ReachesDevice i s ∧ ∃ t, exec i s = .next t := by
  unfold ReachesDevice
  cases hm : Instr.isMemory i with
  | false =>
    refine .inr ⟨?_, exec_plain hm s⟩
    simp [regions_plain hm, touchesDevice]
  | true =>
    obtain ⟨out, hout⟩ := exec_memory i hm
    rw [hout]
    cases hv : validate i (Instr.checksLength i) s.snap with
    | some e => exact .inr ⟨nofun, _, memoryCommand_error out hv⟩
    | none =>
      cases hdev : touchesDevice s.plat (regions i s.snap) with
      | true => exact .inl ⟨⟨rfl, rfl⟩, memoryCommand_device out hv hdev⟩
      | false =>
        refine .inr ⟨nofun, ?_⟩
        cases hbad : pickBad s.draws (badAccesses s.plat (regions i s.snap)) with
        | some x => exact ⟨_, memoryCommand_io out hv hdev hbad⟩
        | none => exact ⟨_, memoryCommand_ok out hv ((pickBad_none_iff _ _).mp hbad) hdev⟩

theorem exec_fault_iff (i : Instr) (s : State) (f : Fault) :
    exec i s = .fault f ↔ f = .deviceRegion ∧ ReachesDevice i s := by
  obtain ⟨hdev, h⟩ | ⟨hdev, t, h⟩ := exec_fault_or_next i s <;> simp [h, hdev, eq_comm]

theorem exec_next_iff (i : Instr) (s : State) : (∃ t, exec i s = .next t) ↔ ¬ReachesDevice i s := by
  obtain ⟨hdev, h⟩ | ⟨hdev, t, h⟩ := exec_fault_or_next i s <;> simp [h, hdev]

/-- The next event is a reset that the CORE takes: of its reset input, or a soft one (R230, R232). -/
def State.ResetNext (s : State) : Prop :=
  (∃ level rest, s.inputs = .resetPin level :: rest) ∨
  (s.resetPin = false ∧
    ∃ v rest, s.inputs = .csrWrite (s.plat.csrBase + 0x08) .w32 v :: rest ∧ v.getLsbD 1 = true)

/-- A reset faults the run when it would abort a command on memory with side effects, and otherwise answers a next state. -/
theorem step_reset {s : State} (h : s.ResetNext) :
    s.abortFaults = true ∧ step s = .fault .deviceRegion ∨ s.abortFaults = false ∧ ∃ t, step s = .next t := by
  cases hf : s.abortFaults with
  | true =>
    refine .inl ⟨rfl, ?_⟩
    obtain ⟨level, rest, hin⟩ | ⟨hr, v, rest, hin, hv⟩ := h
    · rw [step_cons hin]
      simp [turn, driveResetPin, hf]
    · exact step_softReset_fault hin hr hv hf
  | false =>
    refine .inr ⟨rfl, ?_⟩
    obtain ⟨level, rest, hin⟩ | ⟨hr, v, rest, hin, hv⟩ := h
    · rw [step_cons hin]
      simp [turn, driveResetPin, hf]
    · exact ⟨_, step_csrWrite .ctrl v hin hr fun _ _ => hf⟩

/-- An abort faults exactly when the running command, decoded, would reach memory with side effects. -/
theorem abortFaults_iff_reachesDevice {s : State} {i : Instr} (h : decode s.snap.cmd = .ok i) :
    s.abortFaults = true ↔ s.phase = .busy ∧ ReachesDevice i s := by
  have hcomplete : complete s = exec i s := by rw [complete, h]
  rw [abortFaults_iff, hcomplete, exec_fault_iff]
  simp

/-- Settles O18: a completion faults exactly when its command reaches memory with side effects, and so does a reset that aborts it. -/
theorem sideEffectMemoryFaultsTheRun : Obligations.SideEffectMemoryFaultsTheRun := by
  unfold Obligations.SideEffectMemoryFaultsTheRun
  refine ⟨fun i s => ⟨fun _ hw hh hlen hfit hpair hdev => ?_, fun f h => ?_⟩, fun s i hdec hreset => ?_⟩
  · have hv : validate i (Instr.checksLength i) s.snap = none :=
      (validate_none_iff _ _ _).mpr ⟨⟨hw, hh⟩, hlen, hfit, hpair⟩
    exact (exec_fault_iff i s _).mpr ⟨rfl, hv, (touchesDevice_iff _ _).mpr hdev⟩
  · obtain ⟨rfl, _, hdev⟩ := (exec_fault_iff i s f).mp h
    exact ⟨rfl, (touchesDevice_iff _ _).mp hdev⟩
  · have habort := abortFaults_iff_reachesDevice hdec
    have hfault : (∃ f, exec i s = .fault f) ↔ ReachesDevice i s := by simp [exec_fault_iff]
    have hidle : s.phase = .idle ↔ s.phase ≠ .busy := by cases s.phase <;> simp
    rw [hfault, exec_next_iff, hidle, ← not_and_or, ← habort]
    obtain ⟨hf, h⟩ | ⟨hf, t, h⟩ := step_reset hreset <;> simp [h, hf]

/-! ### What the result of a command depends on (R68) -/

/-- Two buffers hold the same bytes up to a length. -/
def BytesAgree (len : Nat) (f g : Nat → Byte) : Prop := ∀ k < len, f k = g k

/-- Two planes hold the same samples of a W×H image. -/
def PlanesAgree (w h : Nat) (p q : Plane) : Prop := ∀ y < h, ∀ x < w, p y x = q y x

section stages

variable {w h : Nat} {f g : Nat → Byte} {p q : Plane}

theorem planesAgree_planeOf (hb : BytesAgree (w * h) f g) : PlanesAgree w h (planeOf w f) (planeOf w g) :=
  fun _ hy _ hx => hb _ (plane_index_lt hy hx)

/-- The buffers of two quarter planes, whose length R92 gives as a quarter of the area. -/
theorem planesAgree_planeOf_quarter (hw : w % 2 = 0) (hh : h % 2 = 0) (hb : BytesAgree (w * h / 4) f g) :
    PlanesAgree (w / 2) (h / 2) (planeOf (w / 2) f) (planeOf (w / 2) g) :=
  planesAgree_planeOf (by rwa [quarter_area hw hh])

theorem bytesAgree_planeByte (hp : PlanesAgree w h p q) : BytesAgree (w * h) (planeByte w p) (planeByte w q) := by
  intro k hk
  obtain ⟨hy, hx, _⟩ := offset_split hk
  exact hp _ hy _ hx

theorem bytesAgree_planeByte_quarter (hw : w % 2 = 0) (hh : h % 2 = 0) (hp : PlanesAgree (w / 2) (h / 2) p q) :
    BytesAgree (w * h / 4) (planeByte (w / 2) p) (planeByte (w / 2) q) := by
  rw [← quarter_area hw hh]
  exact bytesAgree_planeByte hp

theorem planesAgree_subsample (hp : PlanesAgree w h p q) :
    PlanesAgree (w / 2) (h / 2) (subsample p) (subsample q) :=
  fun _ hy _ hx => hp _ (by omega) _ (by omega)

theorem planesAgree_upsample (hw : w % 2 = 0) (hh : h % 2 = 0) (hp : PlanesAgree (w / 2) (h / 2) p q) :
    PlanesAgree w h (upsample p) (upsample q) :=
  fun _ hy _ hx => hp _ (by omega) _ (by omega)

/-- The transform of a pixel reads its three bytes (R70, R150). -/
theorem yuvAt_congr (pl : Platform) (hb : BytesAgree (3 * (w * h)) f g) {y x : Nat} (hy : y < h) (hx : x < w) :
    yuvAt pl w f y x = yuvAt pl w g y x := by
  have hin := plane_index_lt hy hx
  simp only [yuvAt]
  rw [hb _ (by omega), hb _ (by omega), hb _ (by omega)]

theorem planesAgree_yPlane (pl : Platform) (hb : BytesAgree (3 * (w * h)) f g) :
    PlanesAgree w h (yPlane pl w f) (yPlane pl w g) :=
  fun _ hy _ hx => congrArg Yuv.y (yuvAt_congr pl hb hy hx)

theorem planesAgree_uPlane (pl : Platform) (hb : BytesAgree (3 * (w * h)) f g) :
    PlanesAgree w h (uPlane pl w f) (uPlane pl w g) :=
  fun _ hy _ hx => congrArg Yuv.u (yuvAt_congr pl hb hy hx)

theorem planesAgree_vPlane (pl : Platform) (hb : BytesAgree (3 * (w * h)) f g) :
    PlanesAgree w h (vPlane pl w f) (vPlane pl w g) :=
  fun _ hy _ hx => congrArg Yuv.v (yuvAt_congr pl hb hy hx)

theorem planesAgree_unpackY (hb : BytesAgree (3 * (w * h) / 2) f g) :
    PlanesAgree w h (unpackY w f) (unpackY w g) :=
  fun _ hy _ hx => hb _ (nv12_y_index_lt (plane_index_lt hy hx))

theorem planesAgree_unpackU (hw : w % 2 = 0) (hh : h % 2 = 0) (hb : BytesAgree (3 * (w * h) / 2) f g) :
    PlanesAgree (w / 2) (h / 2) (unpackU w h f) (unpackU w h g) :=
  fun _ hi _ hj => hb _ (Nat.lt_of_succ_lt (nv12_uv_index_lt hw hh hi hj))

theorem planesAgree_unpackV (hw : w % 2 = 0) (hh : h % 2 = 0) (hb : BytesAgree (3 * (w * h) / 2) f g) :
    PlanesAgree (w / 2) (h / 2) (unpackV w h f) (unpackV w h g) :=
  fun _ hi _ hj => hb _ (nv12_uv_index_lt hw hh hi hj)

/-- The RGB24 buffer of three planes reads sample k/3 of each (R151). -/
theorem bytesAgree_rgbByte (pl : Platform) {p' q' p'' q'' : Plane} (hp : PlanesAgree w h p q)
    (hp' : PlanesAgree w h p' q') (hp'' : PlanesAgree w h p'' q'') :
    BytesAgree (3 * (w * h)) (rgbByte pl w p p' p'') (rgbByte pl w q q' q'') := by
  intro k hk
  obtain ⟨hy, hx, _⟩ := offset_split (w := w) (h := h) (k := k / 3) (by omega)
  simp only [rgbByte]
  rw [hp _ hy _ hx, hp' _ hy _ hx, hp'' _ hy _ hx]

/-- Past the Y plane, an offset of an NV12 buffer stands in one of H/2 rows of W bytes (R73). -/
theorem nv12_row_col {k : Nat} (hw : w % 2 = 0) (hh : h % 2 = 0) (hk : k < 3 * (w * h) / 2) (hy : w * h ≤ k) :
    (k - w * h) / w < h / 2 ∧ (k - w * h) % w / 2 < w / 2 := by
  have hhalf : w * h = 2 * (w * (h / 2)) := by
    rw [Nat.mul_left_comm, Nat.mul_div_cancel' (Nat.dvd_of_mod_eq_zero hh)]
  obtain ⟨hrow, hcol, _⟩ := offset_split (w := w) (h := h / 2) (k := k - w * h) (by omega)
  exact ⟨hrow, by omega⟩

theorem bytesAgree_packByte {p' q' p'' q'' : Plane} (hw : w % 2 = 0) (hh : h % 2 = 0) (hp : PlanesAgree w h p q)
    (hp' : PlanesAgree (w / 2) (h / 2) p' q') (hp'' : PlanesAgree (w / 2) (h / 2) p'' q'') :
    BytesAgree (3 * (w * h) / 2) (packByte w h p p' p'') (packByte w h q q' q'') := by
  intro k hk
  simp only [packByte]
  split
  · next hy => exact bytesAgree_planeByte hp k hy
  · next hy =>
    obtain ⟨hrow, hcol⟩ := nv12_row_col hw hh hk (by omega)
    rw [hp' _ hrow _ hcol, hp'' _ hrow _ hcol]

end stages

/-- On every region with this role, source or destination, two assignments of bytes agree. -/
def RegionsAgree (dst : Bool) (rs : List Region) (f g : Slot → Nat → Byte) : Prop :=
  ∀ r ∈ rs, r.slot.isDst = dst → BytesAgree r.len (f r.slot) (g r.slot)

section

variable {dst : Bool} {r : Region} {rs : List Region} {f g : Slot → Nat → Byte}

theorem RegionsAgree.nil : RegionsAgree dst [] f g := nofun

theorem RegionsAgree.cons (hb : BytesAgree r.len (f r.slot) (g r.slot)) (h : RegionsAgree dst rs f g) :
    RegionsAgree dst (r :: rs) f g :=
  List.forall_mem_cons.mpr ⟨fun _ => hb, h⟩

theorem RegionsAgree.skip (hd : r.slot.isDst = !dst) (h : RegionsAgree dst rs f g) : RegionsAgree dst (r :: rs) f g :=
  List.forall_mem_cons.mpr ⟨fun hd' => absurd (hd.symm.trans hd') (Bool.not_ne_self dst), h⟩

theorem RegionsAgree.head (h : RegionsAgree dst (r :: rs) f g) (hd : r.slot.isDst = dst) :
    BytesAgree r.len (f r.slot) (g r.slot) := h r List.mem_cons_self hd

theorem RegionsAgree.tail (h : RegionsAgree dst (r :: rs) f g) : RegionsAgree dst rs f g :=
  fun q hq => h q (List.mem_cons_of_mem _ hq)

end

/-- On an image with even dimensions the result of a command reads no byte but those of its source regions (R68). -/
def Produce.ReadsOnlySources (i : Instr) (out : Produce) : Prop :=
  ∀ (p : Platform) (n : Snap) (f g : Slot → Nat → Byte), n.wid % 2 = 0 → n.hei % 2 = 0 →
    RegionsAgree false (regions i n) f g → RegionsAgree true (regions i n) (out p n f) (out p n g)

theorem rgb2yuvBytes_readsOnlySources : Produce.ReadsOnlySources .rgb2yuv rgb2yuvBytes := by
  intro p n f g _ _ hsrc
  have hrgb := hsrc.head rfl
  have hy := bytesAgree_planeByte (planesAgree_yPlane p hrgb)
  have hu := bytesAgree_planeByte (planesAgree_uPlane p hrgb)
  have hv := bytesAgree_planeByte (planesAgree_vPlane p hrgb)
  exact .skip rfl (.cons hy (.cons hu (.cons hv .nil)))

theorem yuv2rgbBytes_readsOnlySources : Produce.ReadsOnlySources .yuv2rgb yuv2rgbBytes := by
  intro p n f g _ _ hsrc
  have hy := planesAgree_planeOf (hsrc.head rfl)
  have hu := planesAgree_planeOf (hsrc.tail.head rfl)
  have hv := planesAgree_planeOf (hsrc.tail.tail.head rfl)
  exact .skip rfl (.skip rfl (.skip rfl (.cons (bytesAgree_rgbByte p hy hu hv) .nil)))

theorem subsampleBytes_readsOnlySources : Produce.ReadsOnlySources .subsample subsampleBytes := by
  intro p n f g hw hh hsrc
  have hplane := planesAgree_planeOf (hsrc.head rfl)
  exact .skip rfl (.cons (bytesAgree_planeByte_quarter hw hh (planesAgree_subsample hplane)) .nil)

theorem upsampleBytes_readsOnlySources : Produce.ReadsOnlySources .upsample upsampleBytes := by
  intro p n f g hw hh hsrc
  have hquarter := planesAgree_planeOf_quarter hw hh (hsrc.head rfl)
  exact .skip rfl (.cons (bytesAgree_planeByte (planesAgree_upsample hw hh hquarter)) .nil)

theorem packBytes_readsOnlySources : Produce.ReadsOnlySources .pack packBytes := by
  intro p n f g hw hh hsrc
  have hy := planesAgree_planeOf (hsrc.head rfl)
  have hu := planesAgree_planeOf_quarter hw hh (hsrc.tail.head rfl)
  have hv := planesAgree_planeOf_quarter hw hh (hsrc.tail.tail.head rfl)
  exact .skip rfl (.skip rfl (.skip rfl (.cons (bytesAgree_packByte hw hh hy hu hv) .nil)))

theorem encodeBytes_readsOnlySources : Produce.ReadsOnlySources .encode encodeBytes := by
  intro p n f g hw hh hsrc
  have hrgb := hsrc.head rfl
  have hy := planesAgree_yPlane p hrgb
  have hu := planesAgree_subsample (planesAgree_uPlane p hrgb)
  have hv := planesAgree_subsample (planesAgree_vPlane p hrgb)
  exact .skip rfl (.cons (bytesAgree_packByte hw hh hy hu hv) .nil)

theorem unpackBytes_readsOnlySources : Produce.ReadsOnlySources .unpack unpackBytes := by
  intro p n f g hw hh hsrc
  have hnv12 := hsrc.head rfl
  have hy := bytesAgree_planeByte (planesAgree_unpackY hnv12)
  have hu := bytesAgree_planeByte_quarter hw hh (planesAgree_unpackU hw hh hnv12)
  have hv := bytesAgree_planeByte_quarter hw hh (planesAgree_unpackV hw hh hnv12)
  exact .skip rfl (.cons hy (.cons hu (.cons hv .nil)))

theorem decodeBytesOf_readsOnlySources : Produce.ReadsOnlySources .decode decodeBytesOf := by
  intro p n f g hw hh hsrc
  have hnv12 := hsrc.head rfl
  have hy := planesAgree_unpackY hnv12
  have hu := planesAgree_upsample hw hh (planesAgree_unpackU hw hh hnv12)
  have hv := planesAgree_upsample hw hh (planesAgree_unpackV hw hh hnv12)
  exact .skip rfl (.cons (bytesAgree_rgbByte p hy hu hv) .nil)

/-- The completion of each memory command is the shared one, with a result that reads its source regions alone. -/
theorem exec_memory_readsOnlySources {i : Instr} (h : Instr.isMemory i = true) :
    ∃ out, Produce.ReadsOnlySources i out ∧ ∀ s, exec i s = memoryCommand i (Instr.checksLength i) out s := by
  cases i with
  | encode => exact ⟨_, encodeBytes_readsOnlySources, fun _ => rfl⟩
  | decode => exact ⟨_, decodeBytesOf_readsOnlySources, fun _ => rfl⟩
  | rgb2yuv => exact ⟨_, rgb2yuvBytes_readsOnlySources, fun _ => rfl⟩
  | yuv2rgb => exact ⟨_, yuv2rgbBytes_readsOnlySources, fun _ => rfl⟩
  | subsample => exact ⟨_, subsampleBytes_readsOnlySources, fun _ => rfl⟩
  | upsample => exact ⟨_, upsampleBytes_readsOnlySources, fun _ => rfl⟩
  | pack => exact ⟨_, packBytes_readsOnlySources, fun _ => rfl⟩
  | unpack => exact ⟨_, unpackBytes_readsOnlySources, fun _ => rfl⟩
  | nop | pixRgb2yuv | pixYuv2rgb => cases h

/-! ### Outcomes that agree (R124) -/

/-- The flags, the error record and PIX_OUT are the same. -/
structure SameFlags (s s' : State) : Prop where
  done : s'.done = s.done
  err : s'.err = s.err
  errCode : s'.errCode = s.errCode
  errArg0 : s'.errArg0 = s.errArg0
  errArg1 : s'.errArg1 = s.errArg1
  pixOut : s'.pixOut = s.pixOut

/-- All that the completion of a command reads or keeps is the same, of memory the bytes of its source regions alone. -/
structure SameInputs (i : Instr) (s s' : State) : Prop extends SameFlags s s' where
  wf : Memory.wf s.mem = true
  wf' : Memory.wf s'.mem = true
  snap : s'.snap = s.snap
  plat : s'.plat = s.plat
  draws : s'.draws = s.draws
  sources : RegionsAgree false (regions i s.snap) s'.sourceByte s.sourceByte

/-- Two outcomes of a command with these regions agree: the same fault, or states with the same phase and flags and, when no error
ended the command, with the same bytes in the destination regions. -/
inductive OutcomesAgree (rs : List Region) : Result → Result → Prop
  | fault (f : Fault) : OutcomesAgree rs (.fault f) (.fault f)
  | next {t t' : State} (phase : t'.phase = t.phase) (flags : SameFlags t t')
      (bytes : t.err = false → ∀ r ∈ rs, r.slot.isDst = true → ∀ k < r.len,
        Memory.read t'.mem (r.base.toNat + k) = Memory.read t.mem (r.base.toNat + k)) :
      OutcomesAgree rs (.next t) (.next t')

section agreement

variable {i : Instr} {s s' : State}

theorem SameFlags.finishOk (h : SameFlags s s') : SameFlags s.finishOk s'.finishOk := { h with done := rfl }

theorem SameFlags.raise (h : SameFlags s s') (c : ErrCode) (x y : Word) : SameFlags (s.raise c x y) (s'.raise c x y) :=
  { h with err := rfl, errCode := rfl, errArg0 := rfl, errArg1 := rfl }

theorem SameFlags.dmaWriteAll (h : SameFlags s s') (rs : List Region) (f g : Slot → Nat → Byte) :
    SameFlags (s.dmaWriteAll rs f) (s'.dmaWriteAll rs g) := by
  constructor <;> simp [h.done, h.err, h.errCode, h.errArg0, h.errArg1, h.pixOut]

theorem SameFlags.setPixOut (h : SameFlags s s') {v v' : Pix} (hv : v' = v) :
    SameFlags { s with pixOut := v } { s' with pixOut := v' } := { h with pixOut := hv }

/-- Runs that both end with the same error agree. -/
theorem OutcomesAgree.raise (rs : List Region) (h : SameFlags s s') (c : ErrCode) (x y : Word) :
    OutcomesAgree rs (.next (s.raise c x y)) (.next (s'.raise c x y)) :=
  .next rfl (h.raise c x y) nofun

/-- Successful runs agree whose results agree on the destination regions, when these fit and do not overlap. -/
theorem OutcomesAgree.finishOk {rs : List Region} {f g : Slot → Nat → Byte} (h : SameFlags s s')
    (hwf : Memory.wf s.mem = true) (hwf' : Memory.wf s'.mem = true) (hfit : ∀ r ∈ rs, r.base.toNat + r.len ≤ memSize)
    (hpair : rs.Pairwise (fun a b => b.slot.isDst = true → AddrRange.apart a.range b.range))
    (hdst : RegionsAgree true rs g f) :
    OutcomesAgree rs (.next (s.dmaWriteAll rs f).finishOk) (.next (s'.dmaWriteAll rs g).finishOk) := by
  refine .next rfl (h.dmaWriteAll rs f g).finishOk fun _ r hr hd k hk => ?_
  rw [State.finishOk_mem, State.finishOk_mem, State.read_dmaWriteAll_in s rs f hwf hfit hpair hr hd hk,
    State.read_dmaWriteAll_in s' rs g hwf' hfit hpair hr hd hk]
  exact hdst r hr hd k hk

/-- A memory command whose result reads its source regions alone comes to outcomes that agree. -/
theorem SameInputs.memoryCommand {out : Produce} (h : SameInputs i s s') (hout : Produce.ReadsOnlySources i out) (l : Bool) :
    OutcomesAgree (regions i s.snap) (memoryCommand i l out s) (memoryCommand i l out s') := by
  obtain ⟨hflags, hwf, hwf', hsnap, hplat, hdraws, hsrc⟩ := h
  cases hv : validate i l s.snap with
  | some e =>
    rw [memoryCommand_error out hv, memoryCommand_error out (hsnap ▸ hv)]
    exact .raise _ hflags _ _ _
  | none =>
    cases hdev : touchesDevice s.plat (regions i s.snap) with
    | true =>
      rw [memoryCommand_device out hv hdev, memoryCommand_device out (hsnap ▸ hv) (hsnap ▸ hplat ▸ hdev)]
      exact .fault _
    | false =>
      cases hbad : pickBad s.draws (badAccesses s.plat (regions i s.snap)) with
      | some x =>
        rw [memoryCommand_io out hv hdev hbad, memoryCommand_io out (hsnap ▸ hv) (hsnap ▸ hplat ▸ hdev)
          (hsnap ▸ hplat ▸ hdraws ▸ hbad), hsnap]
        exact .raise _ (hflags.dmaWriteAll _ _ _) _ _ _
      | none =>
        obtain ⟨⟨hw, hh⟩, _, hfit, hpair⟩ := (validate_none_iff _ _ _).mp hv
        have hok := (pickBad_none_iff _ _).mp hbad
        rw [memoryCommand_ok out hv hok hdev, memoryCommand_ok out (hsnap ▸ hv) (hsnap ▸ hplat ▸ hok) (hsnap ▸ hplat ▸ hdev),
          hsnap, hplat]
        exact .finishOk hflags hwf hwf' hfit hpair (hout _ _ _ _ hw hh hsrc)

/-- Every command comes to outcomes that agree. -/
theorem SameInputs.exec (h : SameInputs i s s') : OutcomesAgree (regions i s.snap) (exec i s) (exec i s') := by
  cases hm : Instr.isMemory i with
  | true =>
    obtain ⟨out, hout, hexec⟩ := exec_memory_readsOnlySources hm
    rw [hexec, hexec]
    exact h.memoryCommand hout _
  | false =>
    have hflags := h.toSameFlags
    rw [regions_plain hm]
    cases i with
    | nop => exact .next rfl hflags.finishOk nofun
    | pixRgb2yuv =>
      have hresult : pixRgb2yuvResult s'.plat s'.snap = pixRgb2yuvResult s.plat s.snap := by rw [h.plat, h.snap]
      exact .next rfl (hflags.setPixOut hresult).finishOk nofun
    | pixYuv2rgb =>
      have hresult : pixYuv2rgbResult s'.plat s'.snap = pixYuv2rgbResult s.plat s.snap := by rw [h.plat, h.snap]
      exact .next rfl (hflags.setPixOut hresult).finishOk nofun
    | _ => cases hm

end agreement

/-- Settles O30: the checks, the bus and the result of a command see the same in both states, so that the outcomes agree. -/
theorem outcomeDependsOnlyOnTheSourceRegions : Obligations.OutcomeDependsOnlyOnTheSourceRegions := by
  unfold Obligations.OutcomeDependsOnlyOnTheSourceRegions
  intro i s s' hwf hwf' hsnap hplat hdraws hdone herr herr' hcode harg0 harg1 hpix hsrc
  have hin : SameInputs i s s' :=
    ⟨⟨hdone, herr'.trans herr.symm, hcode, harg0, harg1, hpix⟩, hwf, hwf', hsnap, hplat, hdraws, hsrc⟩
  have hagree := hin.exec
  generalize exec i s = o, exec i s' = o' at hagree ⊢
  cases hagree with
  | fault f => exact ⟨fun _ h => h, fun _ h => nomatch h⟩
  | next hphase hflags hbytes =>
    refine ⟨fun _ h => (nomatch h), fun t h => ?_⟩
    cases h
    exact ⟨_, rfl, hphase, hflags.done, hflags.err, hflags.errCode, hflags.errArg0, hflags.errArg1, hflags.pixOut, hbytes⟩

end Sys2Proof.Machine
end

section
/-! PROOFS. The family 30_encoding.md: which words are commands (R91, R95), why the others are illegal (R94), and the bytes of a CMD
write (R61, R90). -/

namespace Sys2Proof

/-! ### The words of the commands (R91, R95) -/

@[simp] theorem decode_encode (i : Instr) : decode (encode i) = .ok i := by cases i <;> rfl

/-- Settles O1: only a command's own word decodes to it, and that word does. -/
theorem wordDecodesExactlyToItsCommand : Obligations.WordDecodesExactlyToItsCommand := by
  unfold Obligations.WordDecodesExactlyToItsCommand
  intro c i
  constructor
  · exact Machine.eq_encode_of_decode
  · rintro rfl
    exact decode_encode i

/-! ### The illegal words (R94) -/

/-- The opcode map lists the words 0 to 10, in this order. -/
theorem opcodeMap_patterns : opcodeMap.map (fun r => r.pattern.toNat) = List.range 11 := by decide

/-- A word is no command's exactly from 11 up (R94). -/
theorem decode_error_iff_ge (c : Word) : (∃ e, decode c = .error e) ↔ 11 ≤ c.toNat := by
  have hlisted : (∀ r ∈ opcodeMap, c ≠ r.pattern) ↔ c.toNat ∉ opcodeMap.map (fun r => r.pattern.toNat) := by
    simp only [List.mem_map, not_exists, not_and, ne_comm (a := c), ne_eq, BitVec.toNat_inj]
  rw [decode_error_iff, hlisted, opcodeMap_patterns, List.mem_range, Nat.not_lt]

/-- The reserved bits [31:4] of a word are clear exactly below 16 (R90). -/
theorem resOk_ofWord_iff (c : Word) : (CmdWord.ofWord c).resOk = true ↔ c.toNat < 16 := by
  have hlt := c.isLt
  rw [CmdWord.resOk, CmdWord.ofWord, beq_iff_eq, ← BitVec.toNat_inj, BitVec.extractLsb'_toNat, Nat.shiftRight_eq_div_pow]
  simp only [BitVec.toNat_ofNat]
  omega

/-- A rejected word of the value 16 or more has a reserved bit set; below 16 its OP is a reserved one. -/
theorem decode_error_reason {c : Word} {e : Reject} (h : decode c = .error e) :
    e = if c.toNat < 16 then .reservedOp else .reservedBits := by
  unfold decode at h
  split at h
  · cases h
  · cases h
    simp only [resOk_ofWord_iff]

/-- Which words are rejected, and why (R94). -/
theorem decode_eq_error_iff (c : Word) (e : Reject) :
    decode c = .error e ↔ 11 ≤ c.toNat ∧ e = if c.toNat < 16 then .reservedOp else .reservedBits := by
  constructor
  · intro h
    exact ⟨(decode_error_iff_ge c).mp ⟨e, h⟩, decode_error_reason h⟩
  · rintro ⟨hge, rfl⟩
    obtain ⟨e, he⟩ := (decode_error_iff_ge c).mpr hge
    rw [← decode_error_reason he, he]

/-- Settles O2: a word is rejected from 11 up, and 16 is where the reserved bits begin. -/
theorem wordsFromElevenUpAreIllegal : Obligations.WordsFromElevenUpAreIllegal := by
  unfold Obligations.WordsFromElevenUpAreIllegal
  intro c
  refine ⟨decode_error_iff_ge c, ?_⟩
  rw [decode_eq_error_iff, decode_eq_error_iff]
  by_cases h : c.toNat < 16
  · simp only [if_pos h, reduceCtorEq, and_true, and_false, false_iff]
    omega
  · simp only [if_neg h, reduceCtorEq, and_true, and_false, false_iff]
    omega

/-! ### The bytes of a CMD write (R61, R90) -/

/-- The little-endian bytes of a word, put together, are the word. -/
theorem wordOfBytes_bytesOfWord (c : Word) :
    wordOfBytes (c.extractLsb' 0 8) (c.extractLsb' 8 8) (c.extractLsb' 16 8) (c.extractLsb' 24 8) = c := by
  unfold wordOfBytes
  rw [BitVec.extractLsb'_append_extractLsb'_eq_extractLsb' (by rfl), BitVec.extractLsb'_append_extractLsb'_eq_extractLsb' (by rfl),
    BitVec.extractLsb'_append_extractLsb'_eq_extractLsb' (by rfl)]
  exact BitVec.extractLsb'_eq_self

@[simp] theorem decodeBytes_bytesOfWord (c : Word) : decodeBytes (bytesOfWord c) = decode c :=
  congrArg decode (wordOfBytes_bytesOfWord c)

theorem decodeBytes_of_length_ne {bs : List Byte} (h : bs.length ≠ 4) : decodeBytes bs = .error .notOneWord := by
  unfold decodeBytes
  split
  · exact absurd rfl h
  · rfl

/-- A word of 32 bits is itself as a table word. -/
@[simp] theorem tableWord_toNat (c : Word) : tableWord 32 c.toNat = c := by
  rw [tableWord, Nat.mod_eq_of_lt c.isLt, BitVec.ofNat_toNat, BitVec.setWidth_eq]

/-- Settles O3: the bytes of a word make up the word, so that they and the table's word are decoded as it is. -/
theorem commandBytesDecodeAsTheirWord : Obligations.CommandBytesDecodeAsTheirWord := by
  unfold Obligations.CommandBytesDecodeAsTheirWord
  refine ⟨decodeBytes_bytesOfWord, fun _ => decodeBytes_of_length_ne, fun i => ?_⟩
  rw [decodeTableWord, if_pos le_rfl, tableWord_toNat, decodeBytes_bytesOfWord, decode_encode]
  rfl

/-- Settles O4: three words of commands, and three at or above 11, of which two have a reserved bit. -/
theorem sampleWordsDecode : Obligations.SampleWordsDecode := by
  unfold Obligations.SampleWordsDecode
  exact ⟨decode_encode .encode, decode_encode .unpack, decode_encode .pixYuv2rgb,
    (decode_eq_error_iff _ _).mpr (by decide), (decode_eq_error_iff _ _).mpr (by decide),
    (decode_eq_error_iff _ _).mpr (by decide)⟩

end Sys2Proof
end

section
/-! PROOFS. The family 40_command_cycle.md: the engine's turn and the acceptance of a command (R110 to R113), how a command ends (R120 to
R122) and with which error (R115 to R119), and what it does on an empty image (R127). -/

namespace Sys2Proof.Machine

/-! ### The engine's turn (R110, R123, R246) -/

theorem complete_of_decode {s : State} {i : Instr} (h : decode s.snap.cmd = .ok i) : complete s = exec i s := by
  rw [complete, h]

theorem engineTurn_of_busy {s : State} (h : s.phase = .busy) : engineTurn s = complete s := by rw [engineTurn, h]

theorem engineTurn_of_idle {s : State} (h : s.phase = .idle) : engineTurn s = .next s := by rw [engineTurn, h]

theorem quietTurn_of_busy {s : State} (h : s.phase = .busy) : quietTurn s = complete s.tick := by rw [quietTurn, h]

theorem quietTurn_of_idle {s : State} (h : s.phase = .idle) : quietTurn s = .next s := by rw [quietTurn, h]

/-- While BUSY the engine's turn, named by the next event or taken with no event left, is the completion. -/
theorem step_of_busy {s : State} (hbusy : s.phase = .busy) (hin : s.inputs = [] ∨ s.inputs.head? = some .engine) :
    step s = complete s.tick := by
  rcases hin with hnil | hhead
  · rw [step_nil hnil, quietTurn_of_busy hbusy]
  · obtain ⟨rest, hcons⟩ := List.head?_eq_some_iff.mp hhead
    rw [step_cons hcons, turn, engineTurn_of_busy (s := s.tick) hbusy]

/-- Settles O5: the engine's turn is the completion, which runs the command that the latched word decodes to. -/
theorem stepRunsTheDecodedCommand : Obligations.StepRunsTheDecodedCommand := by
  unfold Obligations.StepRunsTheDecodedCommand
  intro s i hbusy hin hdecode
  rw [step_of_busy hbusy hin]
  exact complete_of_decode hdecode

/-- Taking an event removes it from the list and numbers the step. -/
theorem State.tick_eq {s : State} {e : Event} {rest : List Event} (h : s.inputs = e :: rest) :
    s.tick = { s with inputs := rest, draws := s.draws + 1 } := by
  rw [State.tick, h, List.tail_cons]

/-- Settles O7: while IDLE the engine's turn keeps the state, whether or not an event names it. -/
theorem idleEngineTakesNoStep : Obligations.IdleEngineTakesNoStep := by
  unfold Obligations.IdleEngineTakesNoStep
  intro s hidle
  refine ⟨fun hnil => ?_, fun rest hcons => ?_⟩
  · rw [step_nil hnil, quietTurn_of_idle hidle]
  · rw [step_cons hcons, turn, engineTurn_of_idle (s := s.tick) hidle, State.tick_eq hcons]

/-! ### Writes of CMD (R111 to R113) -/

theorem State.writeCmd_of_busy {s : State} (h : s.phase = .busy) (c : Word) : s.writeCmd c = { s with drop := true } := by
  rw [State.writeCmd, h]

theorem State.writeCmd_of_idle {s : State} (h : s.phase = .idle) (c : Word) : s.writeCmd c = s.accept c := by
  rw [State.writeCmd, h]

/-- The host's write of a word to CMD, reset not asserted. -/
theorem step_writeCmd {s : State} {c : Word} {rest : List Event} (hr : s.resetPin = false)
    (hin : s.inputs = .csrWrite (s.plat.csrBase + 0x10) .w32 c :: rest) :
    step s = .next ((s.tick.writeCmd c).respond .writeOk) :=
  step_csrWrite .cmd c hin hr nofun

/-- Settles O8: a write of CMD while IDLE is the acceptance of the word. -/
theorem cmdWriteWhileIdleIsAccepted : Obligations.CmdWriteWhileIdleIsAccepted := by
  unfold Obligations.CmdWriteWhileIdleIsAccepted
  intro s c rest hidle hr hin
  rw [step_writeCmd hr hin, State.writeCmd_of_idle (s := s.tick) hidle, State.tick_eq hin]
  rfl

/-- Settles O9: a write of CMD while BUSY sets DROP alone. -/
theorem cmdWriteWhileBusyOnlySetsDrop : Obligations.CmdWriteWhileBusyOnlySetsDrop := by
  unfold Obligations.CmdWriteWhileBusyOnlySetsDrop
  intro s c rest hbusy hr hin
  rw [step_writeCmd hr hin, State.writeCmd_of_busy (s := s.tick) hbusy, State.tick_eq hin]
  rfl

/-! ### How a command ends (R120 to R122) -/

/-- Settles O10: each of the ways a command can end, an error, success, and the success of a pixel command, leaves the rest. -/
theorem commandsEndIdleAndLeaveTheOtherRegisters : Obligations.CommandsEndIdleAndLeaveTheOtherRegisters := by
  unfold Obligations.CommandsEndIdleAndLeaveTheOtherRegisters
  intro i s t h
  obtain ⟨c, x, y, ⟨_, rfl⟩ | ⟨_, rfl⟩, hc⟩ | ⟨f, rfl⟩ | ⟨v, hpix, rfl⟩ := exec_cases h
  · exact ⟨rfl, .inr ⟨rfl, rfl, rfl, hc⟩, by simp⟩
  · exact ⟨rfl, .inr ⟨by simp, rfl, by simp, hc⟩, by simp⟩
  · exact ⟨rfl, .inl (by simp), by simp⟩
  · exact ⟨rfl, .inl (by simp), by rcases hpix with rfl | rfl <;> simp⟩

/-- Settles O19: NOP answers the completion of R120 with no write. -/
theorem nopCompletes : Obligations.NopCompletes := by
  unfold Obligations.NopCompletes
  exact fun _ => rfl

/-! ### Changes of the state that a command does not see -/

/-- The changes `g` of the state that the completion of memory command `i` does not see, and that what it does leaves in place. -/
structure Unseen (i : Instr) (l : Bool) (out : Produce) (g : State → State) : Prop where
  plat (s : State) : (g s).plat = s.plat
  draws (s : State) : (g s).draws = s.draws
  validated (s : State) : validate i l (g s).snap = validate i l s.snap
  regions (s : State) : regions i (g s).snap = regions i s.snap
  result (s : State) : out (g s).plat (g s).snap (g s).sourceByte = out s.plat s.snap s.sourceByte
  raise (s : State) (c : ErrCode) (x y : Word) : (g s).raise c x y = g (s.raise c x y)
  finishOk (s : State) : (g s).finishOk = g s.finishOk
  dmaWrite (s : State) (r : Region) (f : Nat → Byte) : (g s).dmaWrite r f = g (s.dmaWrite r f)

section unseen

variable {i : Instr} {l : Bool} {out : Produce} {g : State → State}

theorem Unseen.dmaWriteAll (h : Unseen i l out g) (s : State) (rs : List Region) (f : Slot → Nat → Byte) :
    (g s).dmaWriteAll rs f = g (s.dmaWriteAll rs f) := by
  induction rs generalizing s with
  | nil => rfl
  | cons r rest ih =>
    rw [State.dmaWriteAll, State.dmaWriteAll]
    split
    · rw [h.dmaWrite, ih]
    · exact ih s

theorem Unseen.scramble (h : Unseen i l out g) (s : State) (rs : List Region) : (g s).scramble rs = g (s.scramble rs) := by
  rw [State.scramble, h.draws]
  exact h.dmaWriteAll s rs _

/-- Such a change passes through the completion. -/
theorem Unseen.memoryCommand (h : Unseen i l out g) (s : State) :
    memoryCommand i l out (g s) = mapNext g (memoryCommand i l out s) := by
  unfold Machine.memoryCommand
  rw [h.validated, h.regions, h.result, h.plat, h.draws]
  split
  · exact congrArg _ (h.raise ..)
  · split
    · rfl
    · split
      · rw [h.scramble, h.raise]; rfl
      · rw [h.dmaWriteAll, h.finishOk]; rfl

end unseen

/-- No command sees the parameter CSRs (R113). -/
theorem unseen_withParams (i : Instr) (l : Bool) (out : Produce) (n : Snap) : Unseen i l out (·.withParams n) where
  plat _ := rfl
  draws _ := rfl
  validated _ := rfl
  regions _ := rfl
  result _ := rfl
  raise _ _ _ _ := rfl
  finishOk _ := rfl
  dmaWrite _ _ _ := rfl

/-- Settles O11: a memory command does not see the parameter CSRs, and the others read the snapshot or nothing. -/
theorem commandsReadOnlyTheSnapshot : Obligations.CommandsReadOnlyTheSnapshot := by
  unfold Obligations.CommandsReadOnlyTheSnapshot
  intro i s n
  cases hm : Instr.isMemory i with
  | true =>
    obtain ⟨out, hout⟩ := exec_memory i hm
    rw [hout, hout]
    exact (unseen_withParams i _ out n).memoryCommand s
  | false =>
    cases i with
    | nop | pixRgb2yuv | pixYuv2rgb => rfl
    | _ => cases hm

/-- The snapshot's SRC_LEN replaced. -/
def State.withSnapSrcLen (v : Word) (s : State) : State := { s with snap := { s.snap with srcLen := v } }

theorem regions_srcLen (i : Instr) (n : Snap) (v : Word) : regions i { n with srcLen := v } = regions i n := by
  cases i <;> rfl

/-- Without the source length check the validation does not read SRC_LEN (R116). -/
theorem validate_srcLen (i : Instr) (n : Snap) (v : Word) : validate i false { n with srcLen := v } = validate i false n := by
  unfold validate
  rw [regions_srcLen]
  rfl

/-- The completion of each memory command is the shared one, with a result that does not read SRC_LEN. -/
theorem exec_memory_ignoresSrcLen {i : Instr} (h : Instr.isMemory i = true) :
    ∃ out : Produce, (∀ p n src v, out p { n with srcLen := v } src = out p n src) ∧
      ∀ s, exec i s = memoryCommand i (Instr.checksLength i) out s := by
  cases i with
  | encode | decode | rgb2yuv | yuv2rgb | subsample | upsample | pack | unpack =>
    exact ⟨_, fun _ _ _ _ => rfl, fun _ => rfl⟩
  | nop | pixRgb2yuv | pixYuv2rgb => cases h

theorem unseen_withSnapSrcLen (i : Instr) {out : Produce} (h : ∀ p n src v, out p { n with srcLen := v } src = out p n src)
    (v : Word) : Unseen i false out (State.withSnapSrcLen v) where
  plat _ := rfl
  draws _ := rfl
  validated s := validate_srcLen i s.snap v
  regions s := regions_srcLen i s.snap v
  result s := h s.plat s.snap s.sourceByte v
  raise _ _ _ _ := rfl
  finishOk _ := rfl
  dmaWrite _ _ _ := rfl

/-- A command whose source length is not checked does not see SRC_LEN at all (R116). -/
theorem exec_withSnapSrcLen {i : Instr} (h : Instr.checksLength i = false) (v : Word) (s : State) :
    exec i (s.withSnapSrcLen v) = mapNext (State.withSnapSrcLen v) (exec i s) := by
  cases hm : Instr.isMemory i with
  | true =>
    obtain ⟨out, hsrc, hout⟩ := exec_memory_ignoresSrcLen hm
    rw [hout, hout, h]
    exact (unseen_withSnapSrcLen i hsrc v).memoryCommand s
  | false =>
    cases i with
    | nop | pixRgb2yuv | pixYuv2rgb => rfl
    | _ => cases hm

/-! ### The errors of validation (R114 to R119, R208) -/

theorem exec_of_validate_some {i : Instr} {s : State} {e : Raise} (hm : Instr.isMemory i = true)
    (hv : validate i (Instr.checksLength i) s.snap = some e) : exec i s = .next (s.raise e.code e.arg0 e.arg1) := by
  obtain ⟨out, hout⟩ := exec_memory i hm
  rw [hout]
  exact memoryCommand_error out hv

/-- An error code that a command leaves is the one before it, IO, or what its validation raised. -/
theorem exec_errCode {i : Instr} {s t : State} (h : exec i s = .next t) :
    t.errCode = s.errCode ∨ t.errCode = .io ∨
      ∃ e, validate i (Instr.checksLength i) s.snap = some e ∧ Instr.isMemory i = true ∧ t.errCode = e.code := by
  cases hm : Instr.isMemory i with
  | true =>
    obtain ⟨out, hout⟩ := exec_memory i hm
    rcases memoryCommand_cases (hout s ▸ h) with ⟨e, hv, rfl⟩ | ⟨_, a, d, _, rfl⟩ | ⟨_, _, _, rfl⟩
    · exact .inr (.inr ⟨e, hv, rfl, rfl⟩)
    · exact .inr (.inl rfl)
    · exact .inl (by simp)
  | false =>
    cases i with
    | nop | pixRgb2yuv | pixYuv2rgb => cases h; exact .inl rfl
    | _ => cases hm

/-- A command leaves an error code other than IO that its validation cannot raise only where it stood before. -/
theorem errCode_before {i : Instr} {s t : State} (h : exec i s = .next t) {c : ErrCode} (hc : t.errCode = c) (hio : c ≠ .io)
    (hno : ∀ e, validate i (Instr.checksLength i) s.snap = some e → Instr.isMemory i = true → e.code ≠ c) : s.errCode = c := by
  subst hc
  rcases exec_errCode h with hkept | hio' | ⟨e, hv, hm, he⟩
  · exact hkept.symm
  · exact absurd hio' hio
  · exact absurd he.symm (hno e hv hm)

theorem validate_of_odd (i : Instr) (l : Bool) {n : Snap} (h : n.even = false) :
    validate i l n = some ⟨.dimension, n.w.setWidth 32, n.h.setWidth 32⟩ := by
  simp [validate, evenCheck, h]

/-- Settles O12: the first check raises DIMENSION on an odd dimension and nothing else does; without regions W and H are not read. -/
theorem oddDimensionsEndWithDimension : Obligations.OddDimensionsEndWithDimension := by
  unfold Obligations.OddDimensionsEndWithDimension
  intro i s
  refine ⟨fun hm hodd => ?_, fun heven t h hc => ?_, fun hm w h => ?_⟩
  · rw [exec_of_validate_some hm (validate_of_odd i _ ((Snap.even_false_iff _).mpr hodd)), dim_setWidth, dim_setWidth]
    rfl
  · refine errCode_before h hc nofun fun e hv hm => ?_
    rcases validate_some hv with ⟨hodd, rfl⟩ | ⟨_, _, _, rfl⟩ | ⟨_, r, _, _, rfl⟩ | ⟨_, _, a, b, _, rfl⟩
    · rcases heven with hplain | heven
      · exact absurd (hm.symm.trans hplain) nofun
      · exact absurd (hodd.symm.trans ((Snap.even_iff _).mpr heven)) nofun
    all_goals exact nofun
  · cases i with
    | nop | pixRgb2yuv | pixYuv2rgb => rfl
    | _ => cases hm

theorem validate_of_wrong_length (i : Instr) {l : Bool} {n : Snap} (hl : l = true) (heven : n.even = true)
    (h : n.srcLen.toNat ≠ n.nv12Len) :
    validate i l n = some ⟨.sizeMismatch, BitVec.ofNat 32 n.nv12Len, n.srcLen⟩ := by
  simp [validate, evenCheck, heven, hl, lengthCheck, h]

theorem Instr.checksLength_iff (i : Instr) : Instr.checksLength i = true ↔ i = .decode ∨ i = .unpack := by
  rw [Instr.checksLength, Bool.or_eq_true, decide_eq_true_eq, decide_eq_true_eq]

theorem Instr.isMemory_of_checksLength {i : Instr} (h : Instr.checksLength i = true) : Instr.isMemory i = true := by
  rcases (Instr.checksLength_iff i).mp h with rfl | rfl <;> rfl

/-- DECODE and UNPACK on even dimensions with another source length than R116 expects. -/
theorem exec_of_wrong_length {i : Instr} {s : State} (hl : Instr.checksLength i = true) (heven : s.snap.even = true)
    (hne : s.snap.srcLen.toNat ≠ s.snap.nv12Len) :
    exec i s = .next (s.raise .sizeMismatch (BitVec.ofNat 32 s.snap.nv12Len) s.snap.srcLen) :=
  exec_of_validate_some (Instr.isMemory_of_checksLength hl) (validate_of_wrong_length i hl heven hne)

/-- Settles O13: the second check raises SIZE_MISMATCH on a wrong length and nothing else does; no other command sees SRC_LEN. -/
theorem wrongSourceLengthEndsWithSizeMismatch : Obligations.WrongSourceLengthEndsWithSizeMismatch := by
  unfold Obligations.WrongSourceLengthEndsWithSizeMismatch
  intro i s
  refine ⟨fun hi hw hh => ⟨fun hne => ?_, fun heq t h hc => ?_⟩, fun hd hu v => ?_⟩
  · exact exec_of_wrong_length ((Instr.checksLength_iff i).mpr hi) ((Snap.even_iff _).mpr ⟨hw, hh⟩) hne
  · refine errCode_before h hc nofun fun e hv _ => ?_
    rcases validate_some hv with ⟨_, rfl⟩ | ⟨_, _, hne, rfl⟩ | ⟨_, r, _, _, rfl⟩ | ⟨_, _, a, b, _, rfl⟩
    · exact nofun
    · exact absurd heq hne
    all_goals exact nofun
  · have hl : Instr.checksLength i = false := Bool.eq_false_iff.mpr fun hl => ((Instr.checksLength_iff i).mp hl).elim hd hu
    exact exec_withSnapSrcLen hl v s

/-- Past the checks of the dimensions and of the length, those of the range and of the overlap decide, in this order. -/
theorem validate_of_length {i : Instr} {l : Bool} {n : Snap} (heven : n.even = true)
    (hlen : l = true → n.srcLen.toNat = n.nv12Len) :
    validate i l n = (rangeCheck (regions i n)).or (overlapCheck (regions i n)) := by
  have hlength : (if l then lengthCheck n else none) = none := by
    split
    · next hl => exact (lengthCheck_none_iff n).mpr (hlen hl)
    · rfl
  rw [validate, evenCheck, if_pos heven, hlength]
  cases rangeCheck (regions i n) <;> rfl

/-- The range check finds the first region that passes 2^32 (R117). -/
theorem rangeCheck_of_first {pre post : List Region} {r : Region} (hpre : ∀ q ∈ pre, q.base.toNat + q.len ≤ memSize)
    (hr : memSize < r.base.toNat + r.len) :
    rangeCheck (pre ++ r :: post) = some ⟨.range, r.base, BitVec.ofNat 32 r.len⟩ := by
  have hfind : (pre ++ r :: post).find? (fun r => decide (memSize < r.base.toNat + r.len)) = some r :=
    List.find?_eq_some_iff_append.mpr ⟨by simpa using hr, pre, post, rfl, fun q hq => by simpa using hpre q hq⟩
  rw [rangeCheck, hfind]

/-- Settles O14: the third check raises RANGE for the first region that passes 2^32 and nothing else does. -/
theorem firstRegionPastTheEndEndsWithRange : Obligations.FirstRegionPastTheEndEndsWithRange := by
  unfold Obligations.FirstRegionPastTheEndEndsWithRange
  intro i s
  refine ⟨fun pre post r hm hw hh hlen hrs hpre hr => ?_, fun hfit t h hc => ?_⟩
  · have hv := validate_of_length (i := i) ((Snap.even_iff _).mpr ⟨hw, hh⟩) hlen
    rw [hrs, rangeCheck_of_first hpre hr, Option.some_or] at hv
    exact exec_of_validate_some hm hv
  · refine errCode_before h hc nofun fun e hv _ => ?_
    rcases validate_some hv with ⟨_, rfl⟩ | ⟨_, _, _, rfl⟩ | ⟨_, r, hr, hpast, rfl⟩ | ⟨_, _, a, b, _, rfl⟩
    · exact nofun
    · exact nofun
    · have hbase := r.base.isLt
      have hsize : memSize = 2 ^ 32 := rfl
      have := hfit r hr
      omega
    · exact nofun

theorem Region.overlaps_iff (a b : Region) :
    Region.overlaps a b = true ↔
      0 < a.len ∧ 0 < b.len ∧ a.base.toNat < b.base.toNat + b.len ∧ b.base.toNat < a.base.toNat + a.len := by
  simp [Region.overlaps, and_assoc]

/-- The overlap check does not take a region that is a source, or apart. -/
theorem Region.not_overlapped {a q : Region} (h : q.slot.isDst = true → AddrRange.apart a.range q.range) :
    (q.slot.isDst && Region.overlaps a q) = false := by
  rw [Bool.and_eq_false_imp]
  exact fun hd => (Region.overlaps_false_iff a q).mpr (h hd)

/-- The overlap check finds the lexicographically first pair: `b` is the first destination after `a` that overlaps it, and no region
before `a` overlaps a destination after it (R119). -/
theorem firstOverlap_of_first {pre mid post : List Region} {a b : Region} (hd : b.slot.isDst = true)
    (hover : Region.overlaps a b = true) (hmid : ∀ q ∈ mid, q.slot.isDst = true → AddrRange.apart a.range q.range)
    (hpre : ∀ x y pre' mid' post', pre ++ a :: mid ++ b :: post = pre' ++ x :: mid' ++ y :: post' → pre'.length < pre.length →
      y.slot.isDst = true → AddrRange.apart x.range y.range) :
    firstOverlap (pre ++ a :: mid ++ b :: post) = some (a, b) := by
  induction pre with
  | nil =>
    have hfind : (mid ++ b :: post).find? (fun q => q.slot.isDst && Region.overlaps a q) = some b :=
      List.find?_eq_some_iff_append.mpr
        ⟨by rw [hd, hover]; rfl, mid, post, rfl, fun q hq => by rw [Region.not_overlapped (hmid q hq)]; rfl⟩
    rw [List.nil_append, List.cons_append, firstOverlap, hfind]
  | cons x pre ih =>
    have hnone : (pre ++ a :: mid ++ b :: post).find? (fun q => q.slot.isDst && Region.overlaps x q) = none := by
      refine List.find?_eq_none.mpr fun y hy => Bool.eq_false_iff.mp (Region.not_overlapped ?_)
      obtain ⟨mid', post', hsplit⟩ := List.append_of_mem hy
      exact hpre x y [] mid' post' (congrArg (x :: ·) hsplit) (Nat.succ_pos _)
    rw [List.cons_append, List.cons_append, firstOverlap, hnone]
    exact ih fun x' y' pre' mid' post' hsplit hlt =>
      hpre x' y' (x :: pre') mid' post' (congrArg (x :: ·) hsplit) (Nat.succ_lt_succ hlt)

/-- Settles O15: the last check raises OVERLAP for the first overlapping pair and nothing else does. -/
theorem firstOverlapEndsWithOverlap : Obligations.FirstOverlapEndsWithOverlap := by
  unfold Obligations.FirstOverlapEndsWithOverlap
  intro i s
  refine ⟨fun pre mid post a b hm hw hh hlen hfit hrs hd hover hmid hpre => ?_, fun hapart t h hc => ?_⟩
  · have hv := validate_of_length (i := i) ((Snap.even_iff _).mpr ⟨hw, hh⟩) hlen
    rw [(rangeCheck_none_iff _).mpr hfit, Option.none_or, overlapCheck, hrs,
      firstOverlap_of_first hd ((Region.overlaps_iff a b).mpr hover) hmid (hrs ▸ hpre)] at hv
    exact exec_of_validate_some hm hv
  · refine errCode_before h hc nofun fun e hv _ => ?_
    rcases validate_some hv with ⟨_, rfl⟩ | ⟨_, _, _, rfl⟩ | ⟨_, r, _, _, rfl⟩ | ⟨_, _, a, b, hfirst, rfl⟩
    · exact nofun
    · exact nofun
    · exact nofun
    · exact absurd (hfirst.symm.trans ((firstOverlap_none_iff _).mpr hapart)) nofun

/-! ### Empty images (R127) -/

/-- On an empty image every region is empty (R92). -/
theorem regions_len_of_area_eq_zero (i : Instr) {n : Snap} (h : n.area = 0) : ∀ r ∈ regions i n, r.len = 0 := by
  cases i <;> simp [regions, Snap.region, h]

section empty

variable {rs : List Region} (hempty : ∀ r ∈ rs, r.len = 0)

include hempty

theorem not_has_of_empty {r : Region} (hr : r ∈ rs) (a : Nat) : ¬Region.has r a = true := by
  have := hempty r hr
  rw [Region.has_iff]
  omega

theorem badAccesses_of_empty (p : Platform) : badAccesses p rs = [] := by
  refine List.eq_nil_iff_forall_not_mem.mpr fun ⟨a, d⟩ hbad => ?_
  obtain ⟨r, hr, hhas, _⟩ := (mem_badAccesses _ _ _ _).mp hbad
  exact not_has_of_empty hempty hr a hhas

theorem touchesDevice_of_empty (p : Platform) : touchesDevice p rs = false :=
  (touchesDevice_false_iff p rs).mpr fun _ hr a hhas => absurd hhas (not_has_of_empty hempty hr a)

theorem apart_of_empty : rs.Pairwise (fun a b => b.slot.isDst = true → AddrRange.apart a.range b.range) :=
  List.pairwise_of_forall_mem_list fun a ha _ _ _ => .inl (hempty a ha)

end empty

/-- Writing an empty region writes nothing, and marks nothing (R119, R127). -/
theorem State.dmaWrite_of_empty (s : State) {r : Region} (h : r.len = 0) (f : Nat → Byte) : s.dmaWrite r f = s := by
  have hclip : r.clipped = 0 := Nat.le_zero.mp (h ▸ Region.clipped_le r)
  have hdrop (m : AddrSet) : AddrSet.dropRange m r.base.toNat 0 = m :=
    List.filter_eq_self.mpr fun a _ => by
      rw [Nat.add_zero, Bool.or_eq_true, decide_eq_true_eq, decide_eq_true_eq]
      exact Nat.lt_or_ge a r.base.toNat
  rw [State.dmaWrite, hclip, hdrop]
  simp [Memory.writeN, AddrSet.insertN]

theorem State.dmaWriteAll_of_empty (s : State) {rs : List Region} (h : ∀ r ∈ rs, r.len = 0) (f : Slot → Nat → Byte) :
    s.dmaWriteAll rs f = s := by
  induction rs with
  | nil => rfl
  | cons r rest ih =>
    obtain ⟨hr, hrest⟩ := List.forall_mem_cons.mp h
    rw [State.dmaWriteAll, State.dmaWrite_of_empty s hr, ite_self]
    exact ih hrest

/-- A memory command on an empty image with even dimensions, and with no source byte where the length is checked. -/
theorem exec_of_empty {i : Instr} {s : State} (hm : Instr.isMemory i = true) (heven : s.snap.even = true)
    (harea : s.snap.area = 0) (hlen : Instr.checksLength i = true → s.snap.srcLen.toNat = s.snap.nv12Len) :
    exec i s = .next s.finishOk := by
  have hempty := regions_len_of_area_eq_zero i harea
  have hfit : ∀ r ∈ regions i s.snap, r.base.toNat + r.len ≤ memSize := fun r hr => by
    rw [hempty r hr]
    exact r.base.isLt.le
  have hv := (validate_none_iff i (Instr.checksLength i) s.snap).mpr
    ⟨(Snap.even_iff _).mp heven, hlen, hfit, apart_of_empty hempty⟩
  obtain ⟨out, hout⟩ := exec_memory i hm
  rw [hout, memoryCommand_ok out hv (badAccesses_of_empty hempty _) (touchesDevice_of_empty hempty _),
    State.dmaWriteAll_of_empty s hempty]

/-- Settles O29: without a byte in its regions a command has no error but SIZE_MISMATCH to end with, and nothing to write. -/
theorem emptyImageCompletesWithoutAccess : Obligations.EmptyImageCompletesWithoutAccess := by
  unfold Obligations.EmptyImageCompletesWithoutAccess
  intro i s hm hzero
  have heven : s.snap.even = true := (Snap.even_iff _).mpr (by omega)
  have harea : s.snap.area = 0 := Nat.mul_eq_zero.mpr (hzero.imp And.left And.left)
  have hnv12 : s.snap.nv12Len = 0 := by rw [Snap.nv12Len, harea]
  refine ⟨fun hlen => ?_, fun hl hne => ?_⟩
  · refine exec_of_empty hm heven harea fun hl => ?_
    rw [hlen hl, hnv12]
    rfl
  · rw [exec_of_wrong_length hl heven (by rw [hnv12]; exact BitVec.toNat_ne_iff_ne.mpr hne), hnv12]
    rfl

end Sys2Proof.Machine
end

section
/-! PROOFS. The family 41_color_transform.md: quantisation (R15), the transforms in exact arithmetic (R144, R146) and in binary32 (R141
to R143, R145), and the commands that apply them (R150 to R153). -/

namespace Sys2Proof.Machine

/-! ### Quantisation (R15) -/

theorem toNat_qn (n : Int) : ((qn n).toNat : Int) = max 0 (min 255 (n / 1000000)) := by
  rw [qn, BitVec.toNat_ofNat]
  omega

theorem toNat_q8 (x : F32) : ((q8 x).toNat : Int) = max 0 (min 255 (x.units / 2 ^ 149)) := by
  rw [q8, BitVec.toNat_ofNat, f32One]
  omega

theorem toNat_q8_of_nonneg {x : F32} (h : 0 ≤ x.units) : ((q8 x).toNat : Int) = min 255 (x.units / 2 ^ 149) := by
  rw [toNat_q8]
  omega

/-! ### The arithmetic a platform selects (R140) -/

section platform

variable {p : Platform}

theorem rgbToYuv_exact (h : p.colorArith = .exact) (r g b : Byte) : rgbToYuv p r g b = rgbToYuvExact p.coeffs r g b := by
  rw [rgbToYuv, h]

theorem rgbToYuv_f32Ltr (h : p.colorArith = .f32Ltr) (r g b : Byte) : rgbToYuv p r g b = rgbToYuvF32 p.coeffs r g b := by
  rw [rgbToYuv, h]

theorem yuvToRgb_exact (h : p.colorArith = .exact) (y u v : Byte) : yuvToRgb p y u v = yuvToRgbExact p.coeffs y u v := by
  rw [yuvToRgb, h]

theorem yuvToRgb_f32Ltr (h : p.colorArith = .f32Ltr) (y u v : Byte) : yuvToRgb p y u v = yuvToRgbF32 p.coeffs y u v := by
  rw [yuvToRgb, h]

end platform

/-! ### Exact arithmetic (R144, R146) -/

/-- Settles O35: each result is the quotient that `qn` clamps; that of Y is a sum of no negative term. -/
theorem exactTransformsFollowTheFormulas : Obligations.ExactTransformsFollowTheFormulas := by
  unfold Obligations.ExactTransformsFollowTheFormulas
  intro p hp hk
  refine ⟨fun r g b => ⟨_, _, _, _, rfl, rfl, rfl, rfl, ?_⟩, fun y u v => ⟨_, _, _, _, rfl, rfl, rfl, rfl, ?_⟩⟩
  · rw [rgbToYuv_exact hp, hk]
    refine ⟨(toNat_qn _).trans (max_eq_right ?_), toNat_qn _, toNat_qn _⟩
    simp only [Coeffs.document]
    omega
  · rw [yuvToRgb_exact hp, hk]
    exact ⟨toNat_qn _, toNat_qn _, toNat_qn _⟩

/-! ### Rounding is exact on binary32 values and keeps the order (R13) -/

/-- A value of less than 24 significant bits rounds to itself: it is the nearest one. -/
theorem f32Round_of_short {m : Int} (hm : m.natAbs < 2 ^ 24) (e : Nat) : f32Round (m * 2 ^ e) 1 = ⟨m * 2 ^ e⟩ := by
  have h := abs_f32Round_mul_sub_le (m * 2 ^ e) Nat.one_pos hm e
  rw [Nat.cast_one, mul_one, mul_one, sub_self, abs_zero] at h
  exact congrArg F32.mk (sub_eq_zero.mp (abs_nonpos_iff.mp h))

/-- `n` is at least as near to its own rounded value as to the one of any other `n'`: that one is a candidate too, since a value with the
magnitude 2^24 is one of 2^23 at the next exponent. -/
theorem abs_f32Round_mul_sub_le_f32Round (n n' : Int) {d : Nat} (hd : 0 < d) :
    |(f32Round n d).units * d - n| ≤ |(f32Round n' d).units * d - n| := by
  obtain ⟨m, e, hm, hval⟩ := exists_f32Round_units_eq n' hd
  rw [hval]
  rcases hm.lt_or_eq with hlt | heq
  · exact abs_f32Round_mul_sub_le n hd hlt e
  · have hhalf : m * 2 ^ e = m / 2 * 2 ^ (e + 1) := by
      have hm2 : m = m / 2 * 2 := by omega
      rw [pow_succ', ← mul_assoc, ← hm2]
    rw [hhalf]
    exact abs_f32Round_mul_sub_le n hd (by omega) (e + 1)

/-- Rounding to a nearest value keeps the order: were the values in the other order, `n` would lie above their middle and `n'` below
it. -/
theorem f32Round_units_mono {n n' : Int} (h : n ≤ n') {d : Nat} (hd : 0 < d) :
    (f32Round n d).units ≤ (f32Round n' d).units := by
  rcases h.eq_or_lt with rfl | hlt
  · exact le_rfl
  · by_contra! hcross
    have hscaled : (f32Round n' d).units * d < (f32Round n d).units * d :=
      mul_lt_mul_of_pos_right hcross (by exact_mod_cast hd)
    have habove : (f32Round n d).units * d + (f32Round n' d).units * d ≤ 2 * n := by
      nlinarith [sq_le_sq.mpr (abs_f32Round_mul_sub_le_f32Round n n' hd)]
    have hbelow : 2 * n' ≤ (f32Round n d).units * d + (f32Round n' d).units * d := by
      nlinarith [sq_le_sq.mpr (abs_f32Round_mul_sub_le_f32Round n' n hd)]
    omega

/-- A binary32 value lies between two others. -/
def F32.Within (x lo hi : F32) : Prop := lo.units ≤ x.units ∧ x.units ≤ hi.units

theorem F32.Within.refl (x : F32) : x.Within x x := ⟨le_rfl, le_rfl⟩

section within

variable {x xlo xhi y ylo yhi : F32} (hx : x.Within xlo xhi)

include hx

theorem F32.Within.add (hy : y.Within ylo yhi) : (fadd x y).Within (fadd xlo ylo) (fadd xhi yhi) :=
  ⟨f32Round_units_mono (add_le_add hx.1 hy.1) Nat.one_pos, f32Round_units_mono (add_le_add hx.2 hy.2) Nat.one_pos⟩

theorem F32.Within.sub (hy : y.Within ylo yhi) : (fsub x y).Within (fsub xlo yhi) (fsub xhi ylo) :=
  ⟨f32Round_units_mono (sub_le_sub hx.1 hy.2) Nat.one_pos, f32Round_units_mono (sub_le_sub hx.2 hy.1) Nat.one_pos⟩

theorem F32.Within.mul_of_nonneg {k : F32} (hk : 0 ≤ k.units) : (fmul k x).Within (fmul k xlo) (fmul k xhi) :=
  ⟨f32Round_units_mono (mul_le_mul_of_nonneg_left hx.1 hk) (Nat.two_pow_pos _),
    f32Round_units_mono (mul_le_mul_of_nonneg_left hx.2 hk) (Nat.two_pow_pos _)⟩

theorem F32.Within.mul_of_nonpos {k : F32} (hk : k.units ≤ 0) : (fmul k x).Within (fmul k xhi) (fmul k xlo) :=
  ⟨f32Round_units_mono (mul_le_mul_of_nonpos_left hx.2 hk) (Nat.two_pow_pos _),
    f32Round_units_mono (mul_le_mul_of_nonpos_left hx.1 hk) (Nat.two_pow_pos _)⟩

end within

theorem f32One_pos : 0 < f32One := Nat.two_pow_pos 149

theorem f32One_cast : (f32One : Int) = 2 ^ 149 := by
  rw [f32One, Nat.cast_pow, Nat.cast_ofNat]

theorem f32OfByte_units (b : Byte) : (f32OfByte b).units = b.toNat * 2 ^ 149 := by
  rw [f32OfByte, f32One_cast]

theorem f32OfByte_within (b : Byte) : (f32OfByte b).Within (f32OfByte 0#8) (f32OfByte 255#8) := by
  simp only [F32.Within, f32OfByte_units, BitVec.toNat_ofNat]
  omega

theorem f32OfMillionths_nonneg {n : Int} (h : 0 ≤ n) : 0 ≤ (f32OfMillionths n).units := by
  rw [f32OfMillionths, f32Round_units_of_nonneg _ (mul_nonneg h (Int.natCast_nonneg _))]
  exact Int.natCast_nonneg _

theorem f32OfMillionths_nonpos_of_neg {n : Int} (h : n < 0) : (f32OfMillionths n).units ≤ 0 := by
  rw [f32OfMillionths, f32Round_units_of_neg _ (mul_neg_of_neg_of_pos h (Int.natCast_pos.mpr f32One_pos))]
  exact neg_nonpos.mpr (Int.natCast_nonneg _)

/-! ### The transforms in binary32 (R141 to R143, R145) -/

/-- Settles O36: each fraction is the literal rounded to 24 significant bits. -/
theorem coefficientsRoundAsTabulated : Obligations.CoefficientsRoundAsTabulated := by
  unfold Obligations.CoefficientsRoundAsTabulated
  decide

section product

variable {n : Int} (c : Byte)

/-- A product of a byte with a coefficient that is not negative lies between those of 0 and of 255. -/
theorem fmul_f32OfByte_within_of_nonneg (hn : 0 ≤ n) :
    (fmul (f32OfMillionths n) (f32OfByte c)).Within
      (fmul (f32OfMillionths n) (f32OfByte 0#8)) (fmul (f32OfMillionths n) (f32OfByte 255#8)) :=
  (f32OfByte_within c).mul_of_nonneg (f32OfMillionths_nonneg hn)

/-- With a negative coefficient the ends change places. -/
theorem fmul_f32OfByte_within_of_neg (hn : n < 0) :
    (fmul (f32OfMillionths n) (f32OfByte c)).Within
      (fmul (f32OfMillionths n) (f32OfByte 255#8)) (fmul (f32OfMillionths n) (f32OfByte 0#8)) :=
  (f32OfByte_within c).mul_of_nonpos (f32OfMillionths_nonpos_of_neg hn)

end product

/-- Settles O38: each product lies between those at the ends of the byte's range, and so do the sums, since rounding keeps the order;
what is left is their values at the ends. -/
theorem forwardTransformStaysInRange : Obligations.ForwardTransformStaysInRange := by
  unfold Obligations.ForwardTransformStaysInRange
  intro p hp hk r g b
  obtain ⟨hylo, hyhi⟩ := ((fmul_f32OfByte_within_of_nonneg (n := 299000) r (by decide)).add
    (fmul_f32OfByte_within_of_nonneg (n := 587000) g (by decide))).add
    (fmul_f32OfByte_within_of_nonneg (n := 114000) b (by decide))
  obtain ⟨hulo, huhi⟩ := (((fmul_f32OfByte_within_of_neg (n := -168736) r (by decide)).add
    (fmul_f32OfByte_within_of_neg (n := -331264) g (by decide))).add
    (fmul_f32OfByte_within_of_nonneg (n := 500000) b (by decide))).add (.refl (f32OfInt 128))
  obtain ⟨hvlo, hvhi⟩ := (((fmul_f32OfByte_within_of_nonneg (n := 500000) r (by decide)).add
    (fmul_f32OfByte_within_of_neg (n := -418688) g (by decide))).add
    (fmul_f32OfByte_within_of_neg (n := -81312) b (by decide))).add (.refl (f32OfInt 128))
  have hy : 0 ≤ F32.units _ := hylo.trans' (by decide)
  have hy255 : F32.units _ ≤ 255 * 2 ^ 149 := hyhi.trans (by decide)
  have hu : 2 ^ 148 ≤ F32.units _ := hulo.trans' (by decide)
  have hv : 2 ^ 148 ≤ F32.units _ := hvlo.trans' (by decide)
  have hhalf : (0 : Int) ≤ 2 ^ 148 := by decide
  rw [rgbToYuv_f32Ltr hp, hk]
  exact ⟨_, _, _, _, rfl, rfl, rfl, rfl, hy, hy255, hu, huhi.trans (by decide), hv, hvhi.trans (by decide),
    (toNat_q8_of_nonneg hy).trans (min_eq_right (Int.ediv_le_of_le_mul (by decide) hy255)),
    toNat_q8_of_nonneg (hhalf.trans hu), toNat_q8_of_nonneg (hhalf.trans hv)⟩

/-- The offset comes off a chroma byte without rounding (R145). -/
theorem fsub_f32OfByte_offset (c : Byte) : fsub (f32OfByte c) (f32OfInt 128) = ⟨((c.toNat : Int) - 128) * 2 ^ 149⟩ := by
  have hoff : f32OfInt 128 = ⟨128 * 2 ^ 149⟩ := f32Round_of_short (by decide) 149
  rw [fsub, hoff, f32OfByte_units, ← sub_mul]
  exact f32Round_of_short (by omega) 149

/-- Settles O60: the differences from 128 are exact, and rounding keeps the order, so that each value lies between those at the ends
of the range of its bytes. -/
theorem inverseTransformIsClampedAndTruncated : Obligations.InverseTransformIsClampedAndTruncated := by
  unfold Obligations.InverseTransformIsClampedAndTruncated
  intro p hp hk y u v
  have hchroma (c : Byte) := (f32OfByte_within c).sub (.refl (f32OfInt 128))
  obtain ⟨hrlo, hrhi⟩ := (f32OfByte_within y).add ((hchroma v).mul_of_nonneg (f32OfMillionths_nonneg (n := 1402000) (by decide)))
  obtain ⟨hglo, hghi⟩ := ((f32OfByte_within y).sub
    ((hchroma u).mul_of_nonneg (f32OfMillionths_nonneg (n := 344136) (by decide)))).sub
    ((hchroma v).mul_of_nonneg (f32OfMillionths_nonneg (n := 714136) (by decide)))
  obtain ⟨hblo, hbhi⟩ := (f32OfByte_within y).add ((hchroma u).mul_of_nonneg (f32OfMillionths_nonneg (n := 1772000) (by decide)))
  rw [yuvToRgb_f32Ltr hp, hk]
  refine ⟨_, fsub (f32OfByte u) (f32OfInt 128), fsub (f32OfByte v) (f32OfInt 128), _, _, _, rfl,
    congrArg F32.units (fsub_f32OfByte_offset u), congrArg F32.units (fsub_f32OfByte_offset v), rfl, rfl, rfl, ?_,
    toNat_q8 _, toNat_q8 _, toNat_q8 _⟩
  simp only [List.forall_mem_cons]
  exact ⟨⟨(mul_le_mul_of_nonneg_left hrlo (by decide)).trans' (by decide), hrhi.trans (by decide)⟩,
    ⟨(mul_le_mul_of_nonneg_left hglo (by decide)).trans' (by decide), hghi.trans (by decide)⟩,
    ⟨(mul_le_mul_of_nonneg_left hblo (by decide)).trans' (by decide), hbhi.trans (by decide)⟩, nofun⟩

/-! ### Neutral chroma (R153) -/

theorem qn_mul_byte (y : Byte) : qn (1000000 * y.toNat) = y := by
  apply BitVec.eq_of_toNat_eq
  have := toNat_qn (1000000 * y.toNat)
  omega

theorem q8_f32OfByte (y : Byte) : q8 (f32OfByte y) = y := by
  apply BitVec.eq_of_toNat_eq
  have := toNat_q8 (f32OfByte y)
  rw [f32OfByte_units] at this
  omega

theorem fmul_zero (k : F32) : fmul k ⟨0⟩ = ⟨0⟩ := by
  rw [fmul, mul_zero]
  rfl

theorem f32Round_f32OfByte_units (y : Byte) : f32Round (f32OfByte y).units 1 = f32OfByte y := by
  rw [f32OfByte_units, f32Round_of_short (by omega), ← f32OfByte_units]

theorem fadd_f32OfByte_zero (y : Byte) : fadd (f32OfByte y) ⟨0⟩ = f32OfByte y := by
  rw [fadd, add_zero, f32Round_f32OfByte_units]

theorem fsub_f32OfByte_zero (y : Byte) : fsub (f32OfByte y) ⟨0⟩ = f32OfByte y := by
  rw [fsub, sub_zero, f32Round_f32OfByte_units]

theorem yuvToRgbF32_neutral {k : Coeffs} (hk : k.off = 128) (y : Byte) : yuvToRgbF32 k y 128#8 128#8 = ⟨y, y, y⟩ := by
  have hd : fsub (f32OfByte 128#8) (f32OfInt 128) = ⟨0⟩ := fsub_f32OfByte_offset 128#8
  simp only [yuvToRgbF32, hk, hd, fmul_zero, fadd_f32OfByte_zero, fsub_f32OfByte_zero, q8_f32OfByte]

theorem yuvToRgbExact_neutral {k : Coeffs} (hk : k.off = 128) (y : Byte) : yuvToRgbExact k y 128#8 128#8 = ⟨y, y, y⟩ := by
  simp [yuvToRgbExact, hk, qn_mul_byte]

/-- Settles O39: under either arithmetic the differences from 128 and their products are 0, and Y comes back from its own value. -/
theorem neutralChromaIsGrey : Obligations.NeutralChromaIsGrey := by
  unfold Obligations.NeutralChromaIsGrey
  intro p y hk
  have hoff : p.coeffs.off = 128 := by rw [hk]; rfl
  cases hp : p.colorArith with
  | f32Ltr => rw [yuvToRgb_f32Ltr hp, yuvToRgbF32_neutral hoff]
  | exact => rw [yuvToRgb_exact hp, yuvToRgbExact_neutral hoff]

/-! ### The commands (R150 to R153) -/

/-- Settles O20: the pixel commands complete with their result in PIX_OUT, and read nothing but the snapshot and the platform. -/
theorem pixelCommandsConvertThePixel : Obligations.PixelCommandsConvertThePixel := by
  unfold Obligations.PixelCommandsConvertThePixel
  exact fun _ => ⟨⟨_, rfl, rfl⟩, ⟨_, rfl, rfl⟩⟩

/-- What RGB2YUV writes for a pixel. -/
theorem rgb2yuvBytes_at (p : Platform) (n : Snap) (src : Slot → Nat → Byte) {y x : Nat} (hx : x < n.wid) :
    rgb2yuvBytes p n src .dst0 (y * n.wid + x) = (yuvAt p n.wid (src .src0) y x).y ∧
    rgb2yuvBytes p n src .dst1 (y * n.wid + x) = (yuvAt p n.wid (src .src0) y x).u ∧
    rgb2yuvBytes p n src .dst2 (y * n.wid + x) = (yuvAt p n.wid (src .src0) y x).v :=
  ⟨planeByte_at (yPlane p n.wid (src .src0)) hx, planeByte_at (uPlane p n.wid (src .src0)) hx,
    planeByte_at (vPlane p n.wid (src .src0)) hx⟩

/-- Settles O21: each destination holds the row-major bytes of its plane. -/
theorem rgb2yuvWritesThreePlanes : Obligations.Rgb2yuvWritesThreePlanes := by
  unfold Obligations.Rgb2yuvWritesThreePlanes
  rintro s _ _ hmem rfl rfl hw hh husable
  obtain ⟨t, ht, hframe, hread⟩ := memoryCommand_result (i := .rgb2yuv) (l := false) rgb2yuvBytes hmem ⟨hw, hh⟩ nofun husable
  simp only [regions, List.forall_mem_cons] at hread
  obtain ⟨_, hdst0, hdst1, hdst2, _⟩ := hread
  refine ⟨t, ht, hframe, fun y x hy hx => ⟨_, rfl, ?_⟩⟩
  have hk := plane_index_lt hy hx
  obtain ⟨hyByte, huByte, hvByte⟩ := rgb2yuvBytes_at s.plat s.snap s.sourceByte (y := y) hx
  exact ⟨(hdst0 rfl _ hk).trans hyByte, (hdst1 rfl _ hk).trans huByte, (hdst2 rfl _ hk).trans hvByte⟩

/-- What YUV2RGB writes for component `c` of a pixel. -/
theorem yuv2rgbBytes_at (p : Platform) (n : Snap) (src : Slot → Nat → Byte) {y x c : Nat} (hx : x < n.wid) (hc : c < 3) :
    yuv2rgbBytes p n src .dst0 (3 * (y * n.wid + x) + c) =
      (yuvToRgb p (src .src0 (y * n.wid + x)) (src .src1 (y * n.wid + x)) (src .src2 (y * n.wid + x))).byte c :=
  rgbByte_at (planeOf n.wid (src .src0)) (planeOf n.wid (src .src1)) (planeOf n.wid (src .src2)) c hx hc

/-- Settles O22: the destination holds the three components of each pixel one after the other. -/
theorem yuv2rgbWritesTheImage : Obligations.Yuv2rgbWritesTheImage := by
  unfold Obligations.Yuv2rgbWritesTheImage
  rintro s _ _ hmem rfl rfl hw hh husable
  obtain ⟨t, ht, hframe, hread⟩ := memoryCommand_result (i := .yuv2rgb) (l := false) yuv2rgbBytes hmem ⟨hw, hh⟩ nofun husable
  simp only [regions, List.forall_mem_cons] at hread
  obtain ⟨_, _, _, hdst, _⟩ := hread
  refine ⟨t, ht, hframe, fun y x hy hx => ⟨_, rfl, ?_⟩⟩
  have hbyte (c : Nat) (hc : c < 3) := by
    have hk : 3 * (y * s.snap.wid + x) + c < 3 * s.snap.area := by
      have := plane_index_lt (w := s.snap.wid) (h := s.snap.hei) hy hx
      rw [Snap.area]
      omega
    exact (hdst rfl _ hk).trans (yuv2rgbBytes_at s.plat s.snap s.sourceByte hx hc)
  exact ⟨hbyte 0 (by decide), hbyte 1 (by decide), hbyte 2 (by decide)⟩

end Sys2Proof.Machine
end

section
/-! PROOFS. The family 42_chroma_sampler.md: the commands SUBSAMPLE and UPSAMPLE (R170 to R173), and how far each sampler undoes the
other (R174, R175). -/

namespace Sys2Proof.Machine

/-! ### The commands (R170 to R173) -/

/-- What SUBSAMPLE writes for a sample of the quarter plane. -/
theorem subsampleBytes_at (p : Platform) (n : Snap) (src : Slot → Nat → Byte) {i j : Nat} (hj : j < n.wid / 2) :
    subsampleBytes p n src .dst0 (i * (n.wid / 2) + j) = src .src0 (2 * i * n.wid + 2 * j) :=
  planeByte_at (subsample (planeOf n.wid (src .src0))) hj

/-- Settles O23: the destination holds the row-major bytes of the subsampled plane. -/
theorem subsampleTakesTheTopLeftSamples : Obligations.SubsampleTakesTheTopLeftSamples := by
  unfold Obligations.SubsampleTakesTheTopLeftSamples
  rintro s _ _ hmem rfl rfl hw hh husable
  obtain ⟨t, ht, hframe, hread⟩ :=
    memoryCommand_result (i := .subsample) (l := false) subsampleBytes hmem ⟨hw, hh⟩ nofun husable
  simp only [regions, List.forall_mem_cons] at hread
  obtain ⟨_, hdst, _⟩ := hread
  refine ⟨t, ht, hframe, fun i j hi hj => ?_⟩
  exact (hdst rfl _ (quarter_index_lt hw hh hi hj)).trans (subsampleBytes_at s.plat s.snap s.sourceByte hj)

/-- What UPSAMPLE writes for a sample of the full plane. -/
theorem upsampleBytes_at (p : Platform) (n : Snap) (src : Slot → Nat → Byte) {y x : Nat} (hx : x < n.wid) :
    upsampleBytes p n src .dst0 (y * n.wid + x) = src .src0 (y / 2 * (n.wid / 2) + x / 2) :=
  planeByte_at (upsample (planeOf (n.wid / 2) (src .src0))) hx

/-- Settles O24: the destination holds the row-major bytes of the upsampled plane. -/
theorem upsampleRepeatsEachSample : Obligations.UpsampleRepeatsEachSample := by
  unfold Obligations.UpsampleRepeatsEachSample
  rintro s _ _ hmem rfl rfl hw hh husable
  obtain ⟨t, ht, hframe, hread⟩ :=
    memoryCommand_result (i := .upsample) (l := false) upsampleBytes hmem ⟨hw, hh⟩ nofun husable
  simp only [regions, List.forall_mem_cons] at hread
  obtain ⟨_, hdst, _⟩ := hread
  refine ⟨t, ht, hframe, fun y x hy hx => ?_⟩
  exact (hdst rfl _ (plane_index_lt hy hx)).trans (upsampleBytes_at s.plat s.snap s.sourceByte hx)

/-! ### The samplers and each other (R174, R175) -/

/-- The sample kept for a block is the one replicated into it (R174). -/
@[simp] theorem subsample_upsample (q : Plane) : subsample (upsample q) = q := by
  funext i j
  simp [subsample, upsample]

/-- A replicated sample is the top-left one of its block. -/
theorem upsample_subsample_apply (p : Plane) (y x : Nat) :
    upsample (subsample p) y x = p (2 * (y / 2)) (2 * (x / 2)) := rfl

/-- In the rows, and in the columns, of block `i` replication keeps coordinate `2 * i`. -/
theorem two_mul_half_of_block {i y : Nat} (h : y = 2 * i ∨ y = 2 * i + 1) : 2 * (y / 2) = 2 * i := by omega

/-- Settles O31: replicating a sample over its block gives the plane back exactly when all samples of the block equal it; W and H
even, the blocks fill the image. -/
theorem upsampleUndoesSubsampleOnBlockConstantPlanes : Obligations.UpsampleUndoesSubsampleOnBlockConstantPlanes := by
  unfold Obligations.UpsampleUndoesSubsampleOnBlockConstantPlanes
  refine ⟨subsample_upsample, fun p w h hw hh => ⟨fun hback i j hi hj y x hy hx => ?_, fun hconst y x hy hx => ?_⟩⟩
  · have hyx := hback y x (by omega) (by omega)
    rwa [upsample_subsample_apply, two_mul_half_of_block hy, two_mul_half_of_block hx, eq_comm] at hyx
  · rw [upsample_subsample_apply]
    exact (hconst (y / 2) (x / 2) (by omega) (by omega) y x (by omega) (by omega)).symm

end Sys2Proof.Machine
end

section
/-! PROOFS. The family 43_nv12_encoder.md: the commands PACK and ENCODE (R180 to R183), and that ENCODE leaves what its stages
leave (R184). -/

namespace Sys2Proof.Machine

/-! ### The commands (R180 to R183) -/

/-- What PACK writes for a Y sample. -/
theorem packBytes_y (p : Platform) (n : Snap) (src : Slot → Nat → Byte) {y x : Nat} (hy : y < n.hei) (hx : x < n.wid) :
    packBytes p n src .dst0 (y * n.wid + x) = src .src0 (y * n.wid + x) := packByte_y _ _ _ hy hx

/-- What PACK writes for the samples of a 2×2 block: one byte of each quarter plane, U first. -/
theorem packBytes_uv (p : Platform) (n : Snap) (src : Slot → Nat → Byte) {i j : Nat} (hj : j < n.wid / 2) :
    packBytes p n src .dst0 (n.wid * n.hei + i * n.wid + 2 * j) = src .src1 (i * (n.wid / 2) + j) ∧
    packBytes p n src .dst0 (n.wid * n.hei + i * n.wid + 2 * j + 1) = src .src2 (i * (n.wid / 2) + j) :=
  ⟨packByte_u _ _ _ hj, packByte_v _ _ _ (by omega)⟩

/-- Settles O25: the destination holds the packed NV12 buffer of the three source planes. -/
theorem packInterleavesThePlanes : Obligations.PackInterleavesThePlanes := by
  unfold Obligations.PackInterleavesThePlanes
  rintro s _ _ hmem rfl rfl hw hh husable
  obtain ⟨t, ht, hframe, hread⟩ := memoryCommand_result (i := .pack) (l := false) packBytes hmem ⟨hw, hh⟩ nofun husable
  simp only [regions, List.forall_mem_cons] at hread
  obtain ⟨_, _, _, hdst, _⟩ := hread
  refine ⟨t, ht, hframe, fun y x hy hx => ?_, fun i j hi hj => ?_⟩
  · exact (hdst rfl _ (nv12_y_index_lt (plane_index_lt hy hx))).trans (packBytes_y s.plat s.snap s.sourceByte hy hx)
  · have hv := nv12_uv_index_lt hw hh hi hj
    obtain ⟨huByte, hvByte⟩ := packBytes_uv s.plat s.snap s.sourceByte (i := i) hj
    exact ⟨(hdst rfl _ (Nat.lt_of_succ_lt hv)).trans huByte, (hdst rfl _ hv).trans hvByte⟩

/-- What ENCODE writes for the Y sample of a pixel. -/
theorem encodeBytes_y (p : Platform) (n : Snap) (src : Slot → Nat → Byte) {y x : Nat} (hy : y < n.hei) (hx : x < n.wid) :
    encodeBytes p n src .dst0 (y * n.wid + x) = (yuvAt p n.wid (src .src0) y x).y := packByte_y _ _ _ hy hx

/-- What ENCODE writes for a 2×2 block: U and V of its top-left pixel. -/
theorem encodeBytes_uv (p : Platform) (n : Snap) (src : Slot → Nat → Byte) {i j : Nat} (hj : j < n.wid / 2) :
    encodeBytes p n src .dst0 (n.wid * n.hei + i * n.wid + 2 * j) = (yuvAt p n.wid (src .src0) (2 * i) (2 * j)).u ∧
    encodeBytes p n src .dst0 (n.wid * n.hei + i * n.wid + 2 * j + 1) = (yuvAt p n.wid (src .src0) (2 * i) (2 * j)).v :=
  ⟨packByte_u _ _ _ hj, packByte_v _ _ _ (by omega)⟩

/-- Settles O26: the destination holds the packed NV12 buffer of the Y plane and the two subsampled planes of the transform. -/
theorem encodeWritesNv12 : Obligations.EncodeWritesNv12 := by
  unfold Obligations.EncodeWritesNv12
  rintro s _ _ hmem rfl rfl hw hh husable
  obtain ⟨t, ht, hframe, hread⟩ :=
    memoryCommand_result (i := .encode) (l := false) encodeBytes hmem ⟨hw, hh⟩ nofun husable
  simp only [regions, List.forall_mem_cons] at hread
  obtain ⟨_, hdst, _⟩ := hread
  refine ⟨t, ht, hframe, fun y x hy hx => ⟨_, rfl, ?_⟩, fun i j hi hj => ⟨_, rfl, ?_⟩⟩
  · exact (hdst rfl _ (nv12_y_index_lt (plane_index_lt hy hx))).trans (encodeBytes_y s.plat s.snap s.sourceByte hy hx)
  · have hv := nv12_uv_index_lt hw hh hi hj
    obtain ⟨huByte, hvByte⟩ := encodeBytes_uv s.plat s.snap s.sourceByte (i := i) hj
    exact ⟨(hdst rfl _ (Nat.lt_of_succ_lt hv)).trans huByte, (hdst rfl _ hv).trans hvByte⟩

/-! ### One stage of a sequence (R184) -/

/-- The bytes of memory from an address on. -/
def Memory.bytesAt (m : Memory) (a : Word) (k : Nat) : Byte := Memory.read m (a.toNat + k)

/-- The bytes of each region of a snapshot. -/
def Memory.regionBytes (m : Memory) (n : Snap) (r : Slot) : Nat → Byte := m.bytesAt (n.addr r)

/-- A region of a command stands at the address that the snapshot has for its slot (R92). -/
theorem base_eq_addr_of_mem_regions {i : Instr} {n : Snap} {r : Region} (h : r ∈ regions i n) : r.base = n.addr r.slot := by
  revert r
  cases i <;> simp [regions, Snap.region]

/-- A stage can start: memory is in canonical form, and the host has written back what it wrote (R78). -/
structure State.Ready (p : Platform) (s : State) : Prop where
  wf : Memory.wf s.mem = true
  writtenBack : s.dirty = []
  plat : s.plat = p

/-- With everything written back the DMA reads memory. -/
theorem State.Ready.sourceByte_eq {p : Platform} {s : State} (h : s.Ready p) (n : Snap) :
    ({ s with snap := n } : State).sourceByte = s.mem.regionBytes n := by
  funext r k
  exact State.sourceByte_of_clean _ r (by rw [h.writtenBack, AddrSet.has_nil])

/-- One source and one destination of usable buffers are usable. -/
theorem BuffersUsable.single {p : Platform} {srcs dsts : List AddrRange} (h : BuffersUsable p srcs dsts) {a b : AddrRange}
    (ha : a ∈ srcs) (hb : b ∈ dsts) : BuffersUsable p [a] [b] where
  srcFits := List.forall_mem_singleton.mpr (h.srcFits a ha)
  dstFits := List.forall_mem_singleton.mpr (h.dstFits b hb)
  srcDst := List.forall_mem_singleton.mpr (List.forall_mem_singleton.mpr (h.srcDst a ha b hb))
  dstDst := List.pairwise_singleton _ _
  srcAnswers := List.forall_mem_singleton.mpr (h.srcAnswers a ha)
  dstAnswers := List.forall_mem_singleton.mpr (h.dstAnswers b hb)

/-- A completion leaves nothing to write back where nothing was left before. -/
theorem CompletesWriting.dirty_eq_nil {s t : State} {dsts : List AddrRange} (h : CompletesWriting s t dsts)
    (hs : s.dirty = []) : t.dirty = [] := by
  cases hc : s.plat.dmaCoherent with
  | true => rw [(h.marksCoherent hc).1, hs]
  | false =>
    refine List.eq_nil_iff_forall_not_mem.mpr fun a ha => ?_
    have hmark := h.marksDirty hc a
    rw [(AddrSet.has_iff_mem _ _).mpr ha, hs] at hmark
    simp at hmark

/-- What a stage leaves: a state the next stage can start from, memory as it was outside its destinations, and in each destination
the bytes of its result. -/
structure Stage (i : Instr) (out : Produce) (p : Platform) (n : Snap) (s t : State) : Prop where
  ready : t.Ready p
  outside : ∀ a, inRanges (dstRanges (regions i n)) a = false → Memory.read t.mem a = Memory.read s.mem a
  written : RegionsAgree true (regions i n) (t.mem.regionBytes n) (out p n (s.mem.regionBytes n))

section stage

variable {i : Instr} {out : Produce} {p : Platform} {n : Snap} {s t : State}

/-- A memory command without a length check, on usable buffers, is a stage. -/
theorem State.Ready.stage (h : s.Ready p) (hw : n.wid % 2 = 0) (hh : n.hei % 2 = 0)
    (hu : BuffersUsable p (srcRanges (regions i n)) (dstRanges (regions i n)))
    (ht : memoryCommand i false out { s with snap := n } = .next t) : Stage i out p n s t := by
  obtain ⟨t', ht', hframe, hread⟩ := memoryCommand_result (i := i) (l := false) out (s := { s with snap := n })
    h.wf ⟨hw, hh⟩ nofun (h.plat ▸ hu)
  cases ht.symm.trans ht'
  rw [h.sourceByte_eq] at hread
  have hplat : t.plat = p := by rw [hframe.rest]; exact h.plat
  refine ⟨⟨hframe.canonical, hframe.dirty_eq_nil h.writtenBack, hplat⟩, hframe.outside, fun r hr hd k hk => ?_⟩
  rw [Memory.regionBytes, Memory.bytesAt, ← base_eq_addr_of_mem_regions hr, ← h.plat]
  exact hread r hr hd k hk

end stage

/-! ### Planes held in memory -/

/-- The memory holds a W×H plane, row by row, from an address on (R71, R72). -/
def Memory.HoldsPlane (m : Memory) (a : Word) (w h : Nat) (q : Plane) : Prop := PlanesAgree w h (planeOf w (m.bytesAt a)) q

section planes

variable {i : Instr} {out : Produce} {p : Platform} {n : Snap} {s t : State} {m : Memory} {a : Word} {w h : Nat} {q : Plane}

/-- The row-major bytes of a plane, read back through its pitch, are the plane. -/
theorem Memory.holdsPlane_of_bytesAgree (hb : BytesAgree (w * h) (m.bytesAt a) (planeByte w q)) : m.HoldsPlane a w h q :=
  fun _ hy _ hx => (hb _ (plane_index_lt hy hx)).trans (planeByte_at q hx)

/-- A stage leaves the planes in place that its destinations are apart from. -/
theorem Memory.HoldsPlane.stage {len : Nat} (hp : s.mem.HoldsPlane a w h q) (hst : Stage i out p n s t) (hlen : w * h = len)
    (hapart : ∀ d ∈ dstRanges (regions i n), AddrRange.apart ⟨a.toNat, len⟩ d) : t.mem.HoldsPlane a w h q := by
  intro y hy x hx
  have hin := plane_index_lt hy hx
  refine (hst.outside _ ?_).trans (hp y hy x hx)
  simp only [inRanges, List.any_eq_false, AddrRange.has, Bool.and_eq_true, decide_eq_true_eq]
  intro d hd
  have := hapart d hd
  simp only [AddrRange.apart] at this
  omega

/-- RGB2YUV leaves the three planes of the transform. -/
theorem Stage.holdsPlanes (hst : Stage .rgb2yuv rgb2yuvBytes p n s t) :
    t.mem.HoldsPlane n.dst0 n.wid n.hei (yPlane p n.wid (s.mem.bytesAt n.src0)) ∧
    t.mem.HoldsPlane n.dst1 n.wid n.hei (uPlane p n.wid (s.mem.bytesAt n.src0)) ∧
    t.mem.HoldsPlane n.dst2 n.wid n.hei (vPlane p n.wid (s.mem.bytesAt n.src0)) := by
  have hdst := hst.written.tail
  exact ⟨Memory.holdsPlane_of_bytesAgree (hdst.head rfl), Memory.holdsPlane_of_bytesAgree (hdst.tail.head rfl),
    Memory.holdsPlane_of_bytesAgree (hdst.tail.tail.head rfl)⟩

/-- SUBSAMPLE leaves the quarter plane of the plane at its source. -/
theorem Stage.holdsSubsampled (hst : Stage .subsample subsampleBytes p n s t) (hw : n.wid % 2 = 0) (hh : n.hei % 2 = 0)
    (hp : s.mem.HoldsPlane n.src0 n.wid n.hei q) :
    t.mem.HoldsPlane n.dst0 (n.wid / 2) (n.hei / 2) (subsample q) := by
  have hb : BytesAgree (n.wid / 2 * (n.hei / 2)) (t.mem.bytesAt n.dst0)
      (planeByte (n.wid / 2) (subsample (planeOf n.wid (s.mem.bytesAt n.src0)))) := by
    rw [quarter_area hw hh]
    exact hst.written.tail.head rfl
  exact fun y hy x hx => (Memory.holdsPlane_of_bytesAgree hb y hy x hx).trans (planesAgree_subsample hp y hy x hx)

/-- PACK leaves the NV12 buffer of the planes at its sources. -/
theorem Stage.packs {q' q'' : Plane} (hst : Stage .pack packBytes p n s t) (hw : n.wid % 2 = 0) (hh : n.hei % 2 = 0)
    (hy : s.mem.HoldsPlane n.src0 n.wid n.hei q) (hu : s.mem.HoldsPlane n.src1 (n.wid / 2) (n.hei / 2) q')
    (hv : s.mem.HoldsPlane n.src2 (n.wid / 2) (n.hei / 2) q'') :
    BytesAgree (3 * n.area / 2) (t.mem.bytesAt n.dst0) (packByte n.wid n.hei q q' q'') := by
  have hdst := hst.written.tail.tail.tail.head rfl
  exact fun k hk => (hdst k hk).trans (bytesAgree_packByte hw hh hy hu hv k hk)

/-- ENCODE leaves the NV12 buffer of the Y plane and the two subsampled planes of the transform. -/
theorem Stage.encodes (hst : Stage .encode encodeBytes p n s t) :
    BytesAgree (3 * n.area / 2) (t.mem.bytesAt n.dst0)
      (packByte n.wid n.hei (yPlane p n.wid (s.mem.bytesAt n.src0)) (subsample (uPlane p n.wid (s.mem.bytesAt n.src0)))
        (subsample (vPlane p n.wid (s.mem.bytesAt n.src0)))) :=
  hst.written.tail.head rfl

end planes

/-- Settles O33: each plane that RGB2YUV writes reaches PACK, the U and V planes through SUBSAMPLE, with no stage in between that
writes over it; so PACK packs the planes that ENCODE packs. -/
theorem encodeEqualsItsStages : Obligations.EncodeEqualsItsStages := by
  unfold Obligations.EncodeEqualsItsStages
  rintro s n y u v uq vq s0 s1 s2 s3 s4 _ _ hwf hdirty rfl rfl hw hh hencode hplanes hquarters hpack h0 h1 h2 h3 h4 k hk
  have ready : s.Ready s.plat := ⟨hwf, hdirty, rfl⟩
  have stage0 : Stage .encode encodeBytes s.plat n s s0 := ready.stage hw hh hencode h0
  have stage1 : Stage .rgb2yuv rgb2yuvBytes s.plat { n with dst0 := y, dst1 := u, dst2 := v } s s1 :=
    ready.stage hw hh hplanes h1
  have stage2 : Stage .subsample subsampleBytes s.plat { n with src0 := u, dst0 := uq } s1 s2 :=
    stage1.ready.stage hw hh (hquarters.single (.head _) (.head _)) h2
  have stage3 : Stage .subsample subsampleBytes s.plat { n with src0 := v, dst0 := vq } s2 s3 :=
    stage2.ready.stage hw hh (hquarters.single (.tail _ (.head _)) (.tail _ (.head _))) h3
  have stage4 : Stage .pack packBytes s.plat { n with src0 := y, src1 := uq, src2 := vq } s3 s4 :=
    stage3.ready.stage hw hh hpack h4
  have hsrcDst := hquarters.srcDst
  simp only [List.forall_mem_cons] at hsrcDst
  obtain ⟨_, ⟨hv_uq, _⟩, ⟨hy_uq, hy_vq, _⟩, _⟩ := hsrcDst
  have huq_vq := (List.pairwise_cons.mp hquarters.dstDst).1
  obtain ⟨hy1, hu1, hv1⟩ := stage1.holdsPlanes
  have huq2 := stage2.holdsSubsampled hw hh hu1
  have hv2 := hv1.stage stage2 rfl (List.forall_mem_singleton.mpr hv_uq)
  have hy2 := hy1.stage stage2 rfl (List.forall_mem_singleton.mpr hy_uq)
  have hvq3 := stage3.holdsSubsampled hw hh hv2
  have huq3 := huq2.stage stage3 (quarter_area hw hh) huq_vq
  have hy3 := hy2.stage stage3 rfl (List.forall_mem_singleton.mpr hy_vq)
  exact (stage4.packs hw hh hy3 huq3 hvq3 k hk).trans (stage0.encodes k hk).symm

end Sys2Proof.Machine
end

section
/-! PROOFS. The family 44_nv12_decoder.md: the commands UNPACK and DECODE (R190 to R193), that pack and unpack are inverses (R195), and
that DECODE leaves what its stages leave (R194). -/

namespace Sys2Proof.Machine

/-! ### The commands (R190 to R193) -/

/-- What UNPACK writes for a Y sample. -/
theorem unpackBytes_y (p : Platform) (n : Snap) (src : Slot → Nat → Byte) {y x : Nat} (hx : x < n.wid) :
    unpackBytes p n src .dst0 (y * n.wid + x) = src .src0 (y * n.wid + x) :=
  planeByte_at (unpackY n.wid (src .src0)) hx

/-- What UNPACK writes for the samples of a 2×2 block: one byte into each quarter plane, U first in the source. -/
theorem unpackBytes_uv (p : Platform) (n : Snap) (src : Slot → Nat → Byte) {i j : Nat} (hj : j < n.wid / 2) :
    unpackBytes p n src .dst1 (i * (n.wid / 2) + j) = src .src0 (n.wid * n.hei + i * n.wid + 2 * j) ∧
    unpackBytes p n src .dst2 (i * (n.wid / 2) + j) = src .src0 (n.wid * n.hei + i * n.wid + 2 * j + 1) :=
  ⟨planeByte_at (unpackU n.wid n.hei (src .src0)) hj, planeByte_at (unpackV n.wid n.hei (src .src0)) hj⟩

/-- Settles O27: each destination holds the row-major bytes of its unpacked plane. -/
theorem unpackSeparatesThePlanes : Obligations.UnpackSeparatesThePlanes := by
  unfold Obligations.UnpackSeparatesThePlanes
  rintro s _ _ hmem rfl rfl hw hh hlen husable
  obtain ⟨t, ht, hframe, hread⟩ :=
    memoryCommand_result (i := .unpack) (l := true) unpackBytes hmem ⟨hw, hh⟩ (fun _ => hlen) husable
  simp only [regions, List.forall_mem_cons] at hread
  obtain ⟨_, hdst0, hdst1, hdst2, _⟩ := hread
  refine ⟨t, ht, hframe, fun y x hy hx => ?_, fun i j hi hj => ?_⟩
  · exact (hdst0 rfl _ (plane_index_lt hy hx)).trans (unpackBytes_y s.plat s.snap s.sourceByte hx)
  · have hk := quarter_index_lt hw hh hi hj
    obtain ⟨huByte, hvByte⟩ := unpackBytes_uv s.plat s.snap s.sourceByte (i := i) hj
    exact ⟨(hdst1 rfl _ hk).trans huByte, (hdst2 rfl _ hk).trans hvByte⟩

/-- A component of a pixel stands inside the RGB24 buffer (R70). -/
theorem rgb_index_lt {w h y x c : Nat} (hy : y < h) (hx : x < w) (hc : c < 3) : 3 * (y * w + x) + c < 3 * (w * h) := by
  have := plane_index_lt hy hx
  omega

/-- What DECODE writes for component `c` of a pixel: that of its Y sample and its block's U and V samples (R193). -/
theorem decodeBytesOf_at (p : Platform) (n : Snap) (src : Slot → Nat → Byte) {y x c : Nat} (hx : x < n.wid) (hc : c < 3) :
    decodeBytesOf p n src .dst0 (3 * (y * n.wid + x) + c) =
      (yuvToRgb p (src .src0 (y * n.wid + x)) (src .src0 (n.wid * n.hei + y / 2 * n.wid + 2 * (x / 2)))
        (src .src0 (n.wid * n.hei + y / 2 * n.wid + 2 * (x / 2) + 1))).byte c :=
  rgbByte_at (unpackY n.wid (src .src0)) (upsample (unpackU n.wid n.hei (src .src0)))
    (upsample (unpackV n.wid n.hei (src .src0))) c hx hc

/-- Settles O28: the destination holds the three components of each pixel one after the other. -/
theorem decodeWritesTheImage : Obligations.DecodeWritesTheImage := by
  unfold Obligations.DecodeWritesTheImage
  rintro s _ _ hmem rfl rfl hw hh hlen husable
  obtain ⟨t, ht, hframe, hread⟩ :=
    memoryCommand_result (i := .decode) (l := true) decodeBytesOf hmem ⟨hw, hh⟩ (fun _ => hlen) husable
  simp only [regions, List.forall_mem_cons] at hread
  obtain ⟨_, hdst, _⟩ := hread
  refine ⟨t, ht, hframe, fun y x hy hx => ⟨_, rfl, ?_⟩⟩
  have hbyte (c : Nat) (hc : c < 3) :=
    (hdst rfl _ (rgb_index_lt hy hx hc)).trans (decodeBytesOf_at s.plat s.snap s.sourceByte hx hc)
  exact ⟨hbyte 0 (by decide), hbyte 1 (by decide), hbyte 2 (by decide)⟩

/-! ### Pack and unpack (R195) -/

/-- Packing the unpacked planes gives back every byte: an offset is its row times W and its column, and past the Y plane an even column
is a U sample and an odd one a V sample. -/
theorem packByte_unpack (w h : Nat) (n : Nat → Byte) (k : Nat) :
    packByte w h (unpackY w n) (unpackU w h n) (unpackV w h n) k = n k := by
  have hk := Nat.div_add_mod' k w
  have hchroma := Nat.div_add_mod' (k - w * h) w
  simp only [packByte, unpackY, unpackU, unpackV]
  split
  · exact congrArg n hk
  · split <;> exact congrArg n (by omega)

/-- Settles O32: a sample of each plane is unpacked from the offset it is packed to, and every offset is that of a sample. -/
theorem packAndUnpackAreInverse : Obligations.PackAndUnpackAreInverse := by
  unfold Obligations.PackAndUnpackAreInverse
  intro w h _ _
  refine ⟨fun yp uq vq => ⟨fun y x hy hx => packByte_y yp uq vq hy hx, fun i j _ hj => ⟨packByte_u yp uq vq hj, ?_⟩⟩,
    fun n k _ => packByte_unpack w h n k⟩
  exact packByte_v yp uq vq (by omega)

/-! ### The stages (R194) -/

/-- With the right SRC_LEN the length check makes no difference (R116). -/
theorem memoryCommand_checked_eq {i : Instr} {s : State} (out : Produce) (hlen : s.snap.srcLen.toNat = s.snap.nv12Len) :
    memoryCommand i true out s = memoryCommand i false out s := by
  have hv : validate i true s.snap = validate i false s.snap := by
    simp only [validate, if_true, (lengthCheck_none_iff _).mpr hlen, Bool.false_eq_true, if_false]
  rw [memoryCommand, memoryCommand, hv]

section planes

variable {i : Instr} {out : Produce} {p : Platform} {n : Snap} {s t : State} {m : Memory} {a : Word} {w h : Nat}
  {q q' q'' : Plane}

/-- A memory command with a length check, on usable buffers of the right length, is a stage. -/
theorem State.Ready.stageChecked (hs : s.Ready p) (hw : n.wid % 2 = 0) (hh : n.hei % 2 = 0)
    (hlen : n.srcLen.toNat = n.nv12Len) (hu : BuffersUsable p (srcRanges (regions i n)) (dstRanges (regions i n)))
    (ht : memoryCommand i true out { s with snap := n } = .next t) : Stage i out p n s t :=
  hs.stage hw hh hu ((memoryCommand_checked_eq (s := { s with snap := n }) out hlen).symm.trans ht)

/-- A quarter plane read back through its pitch; R92 gives the length of its bytes as a quarter of the area. -/
theorem Memory.holdsPlane_of_bytesAgree_quarter (hw : w % 2 = 0) (hh : h % 2 = 0)
    (hb : BytesAgree (w * h / 4) (m.bytesAt a) (planeByte (w / 2) q)) : m.HoldsPlane a (w / 2) (h / 2) q :=
  Memory.holdsPlane_of_bytesAgree (by rwa [quarter_area hw hh])

/-- UNPACK leaves the Y plane and the two quarter planes of the NV12 buffer at its source. -/
theorem Stage.holdsUnpacked (hst : Stage .unpack unpackBytes p n s t) (hw : n.wid % 2 = 0) (hh : n.hei % 2 = 0) :
    t.mem.HoldsPlane n.dst0 n.wid n.hei (unpackY n.wid (s.mem.bytesAt n.src0)) ∧
    t.mem.HoldsPlane n.dst1 (n.wid / 2) (n.hei / 2) (unpackU n.wid n.hei (s.mem.bytesAt n.src0)) ∧
    t.mem.HoldsPlane n.dst2 (n.wid / 2) (n.hei / 2) (unpackV n.wid n.hei (s.mem.bytesAt n.src0)) := by
  have hdst := hst.written.tail
  exact ⟨Memory.holdsPlane_of_bytesAgree (hdst.head rfl), Memory.holdsPlane_of_bytesAgree_quarter hw hh (hdst.tail.head rfl),
    Memory.holdsPlane_of_bytesAgree_quarter hw hh (hdst.tail.tail.head rfl)⟩

/-- UPSAMPLE leaves the full plane of the quarter plane at its source. -/
theorem Stage.holdsUpsampled (hst : Stage .upsample upsampleBytes p n s t) (hw : n.wid % 2 = 0) (hh : n.hei % 2 = 0)
    (hq : s.mem.HoldsPlane n.src0 (n.wid / 2) (n.hei / 2) q) : t.mem.HoldsPlane n.dst0 n.wid n.hei (upsample q) := by
  have hdst : t.mem.HoldsPlane n.dst0 n.wid n.hei (upsample (planeOf (n.wid / 2) (s.mem.bytesAt n.src0))) :=
    Memory.holdsPlane_of_bytesAgree (hst.written.tail.head rfl)
  exact fun y hy x hx => (hdst y hy x hx).trans (planesAgree_upsample hw hh hq y hy x hx)

/-- YUV2RGB leaves the RGB24 buffer of the planes at its sources. -/
theorem Stage.converts (hst : Stage .yuv2rgb yuv2rgbBytes p n s t) (hy : s.mem.HoldsPlane n.src0 n.wid n.hei q)
    (hu : s.mem.HoldsPlane n.src1 n.wid n.hei q') (hv : s.mem.HoldsPlane n.src2 n.wid n.hei q'') :
    BytesAgree (3 * n.area) (t.mem.bytesAt n.dst0) (rgbByte p n.wid q q' q'') := by
  have hdst := hst.written.tail.tail.tail.head rfl
  exact fun k hk => (hdst k hk).trans (bytesAgree_rgbByte p hy hu hv k hk)

/-- DECODE leaves the RGB24 buffer of the unpacked Y plane and the two upsampled planes. -/
theorem Stage.decodes (hst : Stage .decode decodeBytesOf p n s t) :
    BytesAgree (3 * n.area) (t.mem.bytesAt n.dst0)
      (rgbByte p n.wid (unpackY n.wid (s.mem.bytesAt n.src0)) (upsample (unpackU n.wid n.hei (s.mem.bytesAt n.src0)))
        (upsample (unpackV n.wid n.hei (s.mem.bytesAt n.src0)))) :=
  hst.written.tail.head rfl

end planes

/-- Settles O34: each plane that UNPACK writes reaches YUV2RGB, the U and V planes through UPSAMPLE, with no stage in between that
writes over it; so YUV2RGB converts the planes that DECODE converts. -/
theorem decodeEqualsItsStages : Obligations.DecodeEqualsItsStages := by
  unfold Obligations.DecodeEqualsItsStages
  rintro s n y u v uq vq s0 s1 s2 s3 s4 _ _ hwf hdirty rfl rfl hw hh hlen hdecode hunpack hplanes hconvert h0 h1 h2 h3 h4 k hk
  have ready : s.Ready s.plat := ⟨hwf, hdirty, rfl⟩
  have stage0 : Stage .decode decodeBytesOf s.plat n s s0 := ready.stageChecked hw hh hlen hdecode h0
  have stage1 : Stage .unpack unpackBytes s.plat { n with dst0 := y, dst1 := uq, dst2 := vq } s s1 :=
    ready.stageChecked hw hh hlen hunpack h1
  have stage2 : Stage .upsample upsampleBytes s.plat { n with src0 := uq, dst0 := u } s1 s2 :=
    stage1.ready.stage hw hh (hplanes.single (.head _) (.head _)) h2
  have stage3 : Stage .upsample upsampleBytes s.plat { n with src0 := vq, dst0 := v } s2 s3 :=
    stage2.ready.stage hw hh (hplanes.single (.tail _ (.head _)) (.tail _ (.head _))) h3
  have stage4 : Stage .yuv2rgb yuv2rgbBytes s.plat { n with src0 := y, src1 := u, src2 := v } s3 s4 :=
    stage3.ready.stage hw hh hconvert h4
  have hsrcDst := hplanes.srcDst
  simp only [List.forall_mem_cons] at hsrcDst
  obtain ⟨_, ⟨hvq_u, _⟩, ⟨hy_u, hy_v, _⟩, _⟩ := hsrcDst
  have hu_v := (List.pairwise_cons.mp hplanes.dstDst).1
  obtain ⟨hy1, huq1, hvq1⟩ := stage1.holdsUnpacked hw hh
  have hu2 := stage2.holdsUpsampled hw hh huq1
  have hvq2 := hvq1.stage stage2 (quarter_area hw hh) (List.forall_mem_singleton.mpr hvq_u)
  have hy2 := hy1.stage stage2 rfl (List.forall_mem_singleton.mpr hy_u)
  have hv3 := stage3.holdsUpsampled hw hh hvq2
  have hu3 := hu2.stage stage3 rfl hu_v
  have hy3 := hy2.stage stage3 rfl (List.forall_mem_singleton.mpr hy_v)
  exact (stage4.converts hy3 hu3 hv3 k hk).trans (stage0.decodes k hk).symm

end Sys2Proof.Machine
end

section
/-! PROOFS. The family 60_exceptions.md: a command that ends with ILLEGAL_CMD (R204) or with IO (R206), and the interrupt
output (R210). -/

namespace Sys2Proof.Machine

/-! ### Illegal commands (R94, R204) -/

/-- The completion of a latched word that is no command. -/
theorem complete_of_illegal {s : State} (h : ∀ i, s.snap.cmd ≠ encode i) :
    complete s = .next (s.raise .illegalCmd s.snap.cmd 0#32) := by
  cases hdecode : decode s.snap.cmd with
  | ok i => exact absurd (eq_encode_of_decode hdecode) (h i)
  | error e => rw [complete, hdecode]

/-- Settles O6: the engine's turn is the completion, and the latched word decodes to no command. -/
theorem illegalWordEndsWithIllegalCmd : Obligations.IllegalWordEndsWithIllegalCmd := by
  unfold Obligations.IllegalWordEndsWithIllegalCmd
  intro s hbusy hin hillegal
  rw [step_of_busy hbusy hin, complete_of_illegal (s := s.tick) hillegal]
  rfl

/-! ### Bus errors (R83, R206) -/

/-- When some access gets a bus error, one is drawn, and it is one of them (R206). -/
theorem exists_pickBad {draw : Nat} {bad : List (Nat × Dir)} (h : bad ≠ []) :
    ∃ a d, pickBad draw bad = some (a, d) ∧ (a, d) ∈ bad := by
  cases hpick : pickBad draw bad with
  | none => exact absurd ((pickBad_none_iff _ _).mp hpick) h
  | some x => exact ⟨x.1, x.2, rfl, pickBad_mem hpick⟩

/-- A memory command that passes the checks and touches no memory with side effects ends with IO when Bad is not empty (R123). -/
theorem exec_of_badAccesses {i : Instr} {s : State} (hm : Instr.isMemory i = true)
    (hv : validate i (Instr.checksLength i) s.snap = none) (hdev : touchesDevice s.plat (regions i s.snap) = false)
    (hbad : badAccesses s.plat (regions i s.snap) ≠ []) :
    ∃ a d, (a, d) ∈ badAccesses s.plat (regions i s.snap) ∧
      exec i s = .next ((s.scramble (regions i s.snap)).raise .io (BitVec.ofNat 32 a) (dirCode d)) := by
  obtain ⟨a, d, hpick, hmem⟩ := exists_pickBad (draw := s.draws) hbad
  obtain ⟨out, hout⟩ := exec_memory i hm
  exact ⟨a, d, hmem, (hout s).trans (memoryCommand_io out hv hdev hpick)⟩

/-- A byte in no destination region keeps its marks of the host's cached copy (R69, R78). -/
theorem State.marks_dmaWriteAll_out (s : State) {rs : List Region} (f : Slot → Nat → Byte)
    (hfit : ∀ r ∈ rs, r.base.toNat + r.len ≤ memSize) {a : Nat}
    (h : ∀ r ∈ rs, r.slot.isDst = true → ¬Region.has r a = true) :
    AddrSet.has (s.dmaWriteAll rs f).dirty a = AddrSet.has s.dirty a ∧
    AddrSet.has (s.dmaWriteAll rs f).stale a = AddrSet.has s.stale a := by
  have hout : inRanges (dstRanges rs) a = false := Bool.eq_false_iff.mpr fun hin => by
    obtain ⟨r, hr, hd, hhas⟩ := (inRanges_dstRanges rs a).mp hin
    exact h r hr hd hhas
  cases hc : s.plat.dmaCoherent with
  | true =>
    obtain ⟨hdirty, hstale⟩ := State.dmaWriteAll_coherent s rs f hc
    rw [hdirty, hstale]
    exact ⟨rfl, rfl⟩
  | false =>
    obtain ⟨hdirty, hstale⟩ := State.dmaWriteAll_marks s rs f hc hfit a
    rw [hdirty, hstale, hout, Bool.not_false, Bool.and_true, Bool.or_false]
    exact ⟨rfl, rfl⟩

/-- Settles O16: the checks pass, so the command ends with one of the bad accesses, after writes to its destinations alone. -/
theorem busErrorEndsWithIo : Obligations.BusErrorEndsWithIo := by
  unfold Obligations.BusErrorEndsWithIo
  intro i s hm hw hh hlen hfit hpair hdev ⟨q, hq, b, hb, hbusError⟩
  have hv : validate i (Instr.checksLength i) s.snap = none :=
    (validate_none_iff _ _ _).mpr ⟨⟨hw, hh⟩, hlen, hfit, hpair⟩
  have hbad : badAccesses s.plat (regions i s.snap) ≠ [] :=
    List.ne_nil_of_mem ((mem_badAccesses _ _ b q.dir).mpr ⟨q, hq, hb, rfl, hbusError⟩)
  obtain ⟨a, d, hmem, hexec⟩ := exec_of_badAccesses hm hv ((touchesDevice_false_iff _ _).mpr hdev) hbad
  obtain ⟨r, hr, ha, rfl, hfails⟩ := (mem_badAccesses _ _ _ _).mp hmem
  refine ⟨_, r, a, hexec, hr, ha, hfails, ?_, fun c hout => ?_⟩
  · rw [State.scramble, State.dmaWriteAll_frame]
    rfl
  · have hout' : ∀ p ∈ regions i s.snap, p.slot.isDst = true → ¬Region.has p c = true :=
      fun p hp hd => Bool.eq_false_iff.mp (hout p hp hd)
    exact ⟨State.read_dmaWriteAll_out s _ _ hout', State.marks_dmaWriteAll_out s _ hfit hout'⟩

/-! ### The interrupt output (R210) -/

theorem State.irq_iff (s : State) : s.irq = true ↔ s.irqEn = true ∧ (s.done = true ∨ s.err = true) := by
  rw [State.irq, Bool.and_eq_true, Bool.or_eq_true]

/-- Settles O47: an asserted interrupt is possible only while IDLE, and the host's look at it is its own turn. -/
theorem interruptFollowsDoneAndErr : Obligations.InterruptFollowsDoneAndErr := by
  unfold Obligations.InterruptFollowsDoneAndErr
  intro s
  refine ⟨s.irq_iff, fun hinv hbusy => ?_, fun rest hin => ?_⟩
  · exact Bool.eq_false_iff.mpr fun hirq => absurd (hbusy.symm.trans (hinv.idle_of_irq hirq)) nofun
  · rw [step_cons hin, State.tick_eq hin]
    rfl

end Sys2Proof.Machine
end

section
/-! PROOFS. The family 70_reset_and_hazards.md: the state after reset and the hardware reset (R230, R231), the buffer duty until the
host has observed completion (R240), what stops a run (R240, R65, R248), and that a command completes (R246). -/

namespace Sys2Proof.Machine

/-! ### The state after reset (R230) -/

/-- Settles O46: ID and VERSION are constants, and the fields behind the other CSRs are 0. -/
theorem csrsReadTheirResetValues : Obligations.CsrsReadTheirResetValues := by
  unfold Obligations.CsrsReadTheirResetValues
  intro p c
  refine ⟨?_, rfl, rfl⟩
  cases c with
  | ctrl => exact (State.resetOn p).ctrlWord_eq
  | status => exact (by decide : State.reset.statusWord = 0#32)
  | errCode => exact (by decide : State.reset.errCodeWord = 0#32)
  | _ => rfl

/-- Settles O55: memory and the marks are empty, and no flag, code or phase that a clause is about is set. -/
theorem invariantHoldsAfterReset : Obligations.InvariantHoldsAfterReset := by
  unfold Obligations.InvariantHoldsAfterReset
  exact fun p =>
    { memWf := rfl
      dirtyWf := rfl
      staleWf := rfl
      coherent := fun _ => ⟨rfl, rfl⟩
      doneErr := nofun
      running := nofun
      errHasCode := nofun
      doneNoCode := nofun
      noCodeNoArgs := fun _ => ⟨rfl, rfl⟩
      noReservedCode := ⟨nofun, nofun⟩
      inReset := nofun }

/-! ### The reset input (R230, R231) -/

/-- A change of the reset input that aborts no command on memory with side effects (log 13). -/
theorem step_resetPin {s : State} {level : Bool} {rest : List Event} (h : s.inputs = .resetPin level :: rest)
    (hf : s.abortFaults = false) : step s = .next { s.tick.resetCore with resetPin := level } := by
  rw [step_cons h, turn, driveResetPin, State.tick_abortFaults, hf, if_neg Bool.false_ne_true]

theorem step_resetPin_fault {s : State} {level : Bool} {rest : List Event} (h : s.inputs = .resetPin level :: rest)
    (hf : s.abortFaults = true) : step s = .fault .deviceRegion := by
  rw [step_cons h, turn, driveResetPin, State.tick_abortFaults, hf, if_pos rfl]

/-- While the reset input is asserted an access to the window is not answered, whatever its offset and width. -/
theorem step_csr_inReset {s : State} {off : Nat} {w : Width} {v : Word} {rest : List Event} (hr : s.resetPin = true)
    (hoff : off < 256)
    (h : s.inputs = .csrRead (s.plat.csrBase + off) w :: rest ∨ s.inputs = .csrWrite (s.plat.csrBase + off) w v :: rest) :
    step s = .next { s with inputs := rest, draws := s.draws + 1, responses := .noAnswer :: s.responses } := by
  rcases h with hin | hin <;> rw [step_cons hin, ← State.tick_respond hin]
  · simp [turn, csrRead, hr, hoff]
  · simp [turn, csrWrite, hr, hoff]

/-- Settles O45: the step is the abort of the running command and the reset of the CORE, unless the abort faults the run. -/
theorem hardwareResetGivesTheResetState : Obligations.HardwareResetGivesTheResetState := by
  unfold Obligations.HardwareResetGivesTheResetState
  intro s level rest hin
  refine ⟨fun hfault => step_resetPin_fault hin ((abortFaults_iff s).mpr hfault), fun hfault => ?_⟩
  have hf : s.abortFaults = false := by rwa [← Bool.not_eq_true, abortFaults_iff]
  have hmem (hidle : s.phase = .idle) : s.tick.abort.mem = s.mem := by
    rw [State.abort_of_idle (s := s.tick) hidle, State.tick_mem]
  refine ⟨_, step_resetPin hin hf, State.csrValue_coreReset s.tick.abort s.plat, rfl, rfl, rfl, hmem,
    fun a ha => State.read_abort_out s.tick ha, fun hlevel off w v rest' hoff hin' => step_csr_inReset hlevel hoff hin'⟩

/-! ### The buffer duty (R240) -/

theorem State.guardedSource_iff (s : State) (a : Nat) :
    s.guardedSource a = true ↔
      ∃ p ∈ s.unobserved, ∃ r ∈ inFlight p.snap, r.slot.isDst = false ∧ Region.has r a = true := by
  simp [State.guardedSource]

theorem State.guardedDestination_iff (s : State) (a : Nat) :
    s.guardedDestination a = true ↔
      ∃ p ∈ s.unobserved, ∃ r ∈ inFlight p.snap, r.slot.isDst = true ∧ Region.has r a = true := by
  simp [State.guardedDestination]

/-- A byte of any region of an unobserved command is guarded, as a source's or as a destination's. -/
theorem State.guarded_of_has {s : State} {p : Pending} {r : Region} {a : Nat} (hp : p ∈ s.unobserved)
    (hr : r ∈ inFlight p.snap) (ha : Region.has r a = true) :
    s.guardedDestination a = true ∨ s.guardedSource a = true := by
  cases hd : r.slot.isDst with
  | true => exact .inl ((s.guardedDestination_iff a).mpr ⟨p, hp, r, hr, hd, ha⟩)
  | false => exact .inr ((s.guardedSource_iff a).mpr ⟨p, hp, r, hr, hd, ha⟩)

/-- A read by an agent outside faults the run exactly at a guarded destination's byte. -/
theorem memRead_fault_iff (ag : Agent) (a : Word) (s : State) (f : Fault) :
    memRead ag a s = .fault f ↔ f = .destinationRace a.toNat ∧ s.guardedDestination a.toNat = true := by
  unfold memRead
  cases s.guardedDestination a.toNat <;> simp [eq_comm]

theorem memRead_of_unguarded {a : Word} {s : State} (ag : Agent) (h : s.guardedDestination a.toNat = false) :
    memRead ag a s = .next (s.respond (.memData (s.outsideByte ag a.toNat))) := by
  rw [memRead, h, if_neg Bool.false_ne_true]

/-- A write by an agent outside faults the run exactly at a guarded byte, as a destination's before a source's. -/
theorem memWrite_fault_iff (ag : Agent) (a : Word) (v : Byte) (s : State) (f : Fault) :
    memWrite ag a v s = .fault f ↔
      f = .destinationRace a.toNat ∧ s.guardedDestination a.toNat = true ∨
      f = .sourceRace a.toNat ∧ s.guardedDestination a.toNat = false ∧ s.guardedSource a.toNat = true := by
  unfold memWrite
  cases s.guardedDestination a.toNat <;> cases s.guardedSource a.toNat <;> simp [eq_comm]

theorem memWrite_of_guarded {a : Word} {s : State} (ag : Agent) (v : Byte)
    (h : s.guardedDestination a.toNat = true ∨ s.guardedSource a.toNat = true) :
    memWrite ag a v s = .fault (.destinationRace a.toNat) ∨ memWrite ag a v s = .fault (.sourceRace a.toNat) := by
  cases hd : s.guardedDestination a.toNat with
  | true => exact .inl ((memWrite_fault_iff ..).mpr (.inl ⟨rfl, hd⟩))
  | false => exact .inr ((memWrite_fault_iff ..).mpr (.inr ⟨rfl, hd, h.resolve_left (hd ▸ Bool.false_ne_true)⟩))

/-- Settles O51: a byte of a region is guarded while its command is unobserved, and both ways of observing leave none unobserved. -/
theorem bufferDutyUntilCompletionIsObserved : Obligations.BufferDutyUntilCompletionIsObserved := by
  unfold Obligations.BufferDutyUntilCompletionIsObserved
  refine ⟨fun s p r ag a v rest hp hr ha => ⟨fun hd hin => ?_, fun hin => ?_⟩, fun s ag a rest hin hfree => ?_,
    fun s rest hr hidle hin => ?_, fun s rest hirq hin => ?_⟩
  · rw [step_cons hin]
    exact (memRead_fault_iff ..).mpr ⟨rfl, (s.guardedDestination_iff _).mpr ⟨p, hp, r, hr, hd, ha⟩⟩
  · rw [step_cons hin]
    exact memWrite_of_guarded (s := s.tick) ag v (State.guarded_of_has hp hr ha)
  · have hun : s.guardedDestination a.toNat = false := by
      rw [← Bool.not_eq_true, State.guardedDestination_iff]
      rintro ⟨p, hp, r, hr, hd, ha⟩
      exact Bool.false_ne_true ((hfree p hp r hr hd).symm.trans ha)
    rw [step_cons hin]
    exact ⟨_, memRead_of_unguarded (s := s.tick) ag hun, rfl, by rintro rfl; rfl⟩
  · refine ⟨_, step_csrRead .status hin hr, ?_⟩
    rw [State.observeStatus_status]
    exact ⟨if_pos hidle, rfl⟩
  · rw [step_cons hin]
    exact ⟨_, rfl, if_pos hirq, rfl⟩

/-! ### Completion of an accepted command (R122, R246) -/

/-- Every completion ends IDLE. -/
theorem complete_idle {s t : State} (h : complete s = .next t) : t.phase = .idle := by
  rcases complete_cases h with ⟨rs, f, c, x, y, _, rfl⟩ | ⟨rs, f, rfl⟩ | ⟨v, _, rfl⟩ <;> rfl

theorem complete_inputs {s t : State} (h : complete s = .next t) : t.inputs = s.inputs := by
  rcases complete_cases h with ⟨rs, f, c, x, y, _, rfl⟩ | ⟨rs, f, rfl⟩ | ⟨v, _, rfl⟩ <;> simp

@[simp] theorem State.resetCore_inputs (s : State) : s.resetCore.inputs = s.inputs := by simp [State.resetCore]

@[simp] theorem State.writeOffset_inputs (s : State) (off : Nat) (v : Word) : (s.writeOffset off v).inputs = s.inputs := by
  rcases State.writeOffset_cases s off v with hw | ⟨c, _, hw⟩ <;> rw [hw]
  rcases State.writeCsr_cases s c v with
    hw | ⟨n, hw⟩ | ⟨_, hw⟩ | ⟨_, hw⟩ | ⟨_, _, hw⟩ | ⟨_, _, hw⟩ <;> rw [hw]
  · rfl
  · rfl
  · rcases State.writeCmd_cases s v with ⟨_, hc⟩ | ⟨_, hc⟩ <;> rw [hc]
    rfl
  · exact State.resetCore_inputs _

@[simp] theorem State.observeStatus_inputs (s : State) (off : Nat) : (s.observeStatus off).inputs = s.inputs := by
  rcases observeStatus_cases s off with h | ⟨_, h⟩ <;> rw [h]

@[simp] theorem State.markWrite_inputs (s : State) (ag : Agent) (a : Nat) : (s.markWrite ag a).inputs = s.inputs := by
  unfold State.markWrite
  split
  · split <;> rfl
  · rfl

/-- The turn of an agent leaves the coming steps of all agents alone. -/
theorem turn_inputs {e : Event} {s t : State} (h : turn e s = .next t) : t.inputs = s.inputs := by
  cases e with
  | engine =>
    simp only [turn, engineTurn] at h
    split at h
    · exact complete_inputs h
    · cases h; rfl
  | csrRead addr w => obtain ⟨off, _, ⟨_, rfl⟩ | ⟨_, _, rfl⟩ | ⟨_, _, rfl⟩⟩ := csrRead_cases h <;> simp
  | csrWrite addr w v => obtain ⟨off, _, ⟨_, rfl⟩ | ⟨_, _, _, rfl⟩ | ⟨_, _, rfl⟩⟩ := csrWrite_cases h <;> simp
  | memRead ag a =>
    obtain ⟨_, rfl⟩ := memRead_cases h
    rfl
  | memWrite ag a v =>
    obtain ⟨_, _, rfl⟩ := memWrite_cases h
    simp
  | cacheWriteBack r =>
    obtain rfl := cacheWriteBack_cases h
    rfl
  | cacheInvalidate r => cases h; rfl
  | irqSample => cases h; rfl
  | resetPin level =>
    obtain ⟨_, rfl⟩ := driveResetPin_cases h
    exact State.resetCore_inputs s
  | busChange faults =>
    simp only [turn, busChange] at h
    split at h <;> cases h <;> rfl

/-- Within these steps the machine is IDLE, unless the run stops before. -/
def State.IdleWithin (s : State) (n : Nat) : Prop :=
  ∃ k, 0 < k ∧ k ≤ n ∧ ∀ t, Host.Core.run Sys2Proof.core k s = .next t → t.phase = .idle

theorem run_succ_next {M : Host.Core} {s u : M.State} (h : M.step s = .next u) (k : Nat) : M.run (k + 1) s = M.run k u := by
  rw [Host.Core.run, h]

/-- What a run that has not stopped did first. -/
theorem exists_step_of_run {M : Host.Core} {s t : M.State} {k : Nat} (h : M.run (k + 1) s = .next t) :
    ∃ u, M.step s = .next u ∧ M.run k u = .next t := by
  rw [Host.Core.run] at h
  split at h
  · next u hu => exact ⟨u, hu, h⟩
  · cases h
  · cases h

/-- A machine whose next step, if there is one, ends IDLE. -/
theorem State.IdleWithin.of_step {s : State} (h : ∀ t, step s = .next t → t.phase = .idle) (n : Nat) :
    s.IdleWithin (n + 1) := by
  refine ⟨1, Nat.one_pos, Nat.le_add_left 1 n, fun t ht => ?_⟩
  obtain ⟨u, hu, hrun⟩ := exists_step_of_run (M := Sys2Proof.core) ht
  cases hrun
  exact h _ hu

theorem State.IdleWithin.step {s u : State} {n : Nat} (hstep : step s = .next u) (h : u.IdleWithin n) :
    s.IdleWithin (n + 1) := by
  obtain ⟨k, _, hle, hidle⟩ := h
  exact ⟨k + 1, Nat.succ_pos k, Nat.succ_le_succ hle, fun t ht => hidle t (run_succ_next (M := Sys2Proof.core) hstep k ▸ ht)⟩

/-- Each event taken while BUSY shortens the list, and with an empty list the engine completes. -/
theorem State.idleWithin_of_busy {es : List Event} {s : State} (hin : s.inputs = es) (hbusy : s.phase = .busy) :
    s.IdleWithin (es.length + 1) := by
  induction es generalizing s with
  | nil => exact .of_step (fun t ht => complete_idle (step_of_busy hbusy (.inl hin) ▸ ht)) _
  | cons e rest ih =>
    by_cases hend : ∀ t, Machine.step s = .next t → t.phase = .idle
    · exact .of_step hend _
    · push Not at hend
      obtain ⟨u, hu, hrunning⟩ := hend
      have hinputs : u.inputs = rest := by rw [turn_inputs (step_cons hin ▸ hu), State.tick_inputs, hin, List.tail_cons]
      have hbusy' : u.phase = .busy := by
        cases hp : u.phase with
        | busy => rfl
        | idle => exact absurd hp hrunning
      exact .step hu (ih hinputs hbusy')

/-- Settles O57, by induction on the list of coming events. -/
theorem acceptedCommandsComplete : Obligations.AcceptedCommandsComplete := by
  unfold Obligations.AcceptedCommandsComplete
  exact fun s hbusy => State.idleWithin_of_busy rfl hbusy

/-! ### What stops a run (R240, R65, R248) -/

theorem State.mem_dirtyIn (s : State) (c : AddrRange) (a : Nat) :
    a ∈ s.dirtyIn c ↔ AddrRange.has c a = true ∧ AddrSet.has s.dirty a = true := by
  rw [State.dirtyIn, List.mem_filter, AddrSet.has_iff_mem, and_comm]

theorem abortFaults_cases {s : State} (h : s.abortFaults = true) : s.phase = .busy ∧ s.accessesDevice = true := by
  obtain ⟨hb, hcomplete⟩ := (abortFaults_iff s).mp h
  obtain ⟨_, hdev⟩ := (complete_fault_iff s _).mp hcomplete
  exact ⟨hb, hdev⟩

/-- The command that accesses memory with side effects, and the byte of its region there (R65). -/
theorem accessesDevice_regions {s : State} (h : s.accessesDevice = true) :
    ∃ i, decode s.snap.cmd = .ok i ∧ ∃ r ∈ regions i s.snap, ∃ a, Region.has r a = true ∧ isDevice s.plat a = true := by
  unfold State.accessesDevice at h
  split at h
  · cases h
  · next i hi =>
    split at h
    · cases h
    · exact ⟨i, hi, (touchesDevice_iff _ _).mp h⟩

theorem driveResetPin_fault {level : Bool} {s : State} {f : Fault} (h : driveResetPin level s = .fault f) :
    f = .deviceRegion ∧ s.abortFaults = true := by
  unfold driveResetPin at h
  split at h
  · next hf => cases h; exact ⟨rfl, hf⟩
  · cases h

/-- A write-back faults only at a byte not yet written back that a duty guards. -/
theorem cacheWriteBack_fault {c : AddrRange} {s : State} {f : Fault} (h : cacheWriteBack c s = .fault f) :
    ∃ a ∈ s.dirtyIn c,
      f = .destinationRace a ∧ s.guardedDestination a = true ∨ f = .sourceRace a ∧ s.guardedSource a = true := by
  unfold cacheWriteBack at h
  split at h
  · next a ha => cases h; exact ⟨a, List.mem_of_find?_eq_some ha, .inl ⟨rfl, List.find?_some ha⟩⟩
  · split at h
    · next a ha => cases h; exact ⟨a, List.mem_of_find?_eq_some ha, .inr ⟨rfl, List.find?_some ha⟩⟩
    · cases h

/-- A CSR write faults only as a soft reset that aborts a command on memory with side effects (R232; log 13). -/
theorem csrWrite_fault {addr : Nat} {w : Width} {v : Word} {s : State} {f : Fault} (h : csrWrite addr w v s = .fault f) :
    f = .deviceRegion ∧ s.abortFaults = true ∧ s.resetPin = false ∧ addr = s.plat.csrBase + 0x08 ∧ w = .w32 ∧
      v.getLsbD 1 = true := by
  unfold csrWrite at h
  split at h
  · cases h
  · next off hoff =>
    split at h
    · cases h
    · next hr =>
      split at h
      · next hok =>
        split at h
        · next hreset =>
          cases h
          obtain ⟨hsoft, hf⟩ := Bool.and_eq_true_iff.mp hreset
          obtain ⟨hctrl, hv⟩ := Bool.and_eq_true_iff.mp hsoft
          obtain rfl := csrAt_some (of_decide_eq_true hctrl)
          exact ⟨rfl, hf, Bool.eq_false_iff.mpr hr, windowOffset_some hoff, width_of_csrAccessOk hok, hv⟩
        · cases h
      · cases h

theorem csrRead_ne_fault (addr : Nat) (w : Width) (s : State) (f : Fault) : csrRead addr w s ≠ .fault f := by
  unfold csrRead
  split
  · nofun
  · split
    · nofun
    · split <;> nofun

theorem windowOffset_none {base addr : Nat} (h : windowOffset base addr = none) :
    ¬(base ≤ addr ∧ addr < base + windowSize) := by
  unfold windowOffset at h
  split at h
  · cases h
  · assumption

theorem csrRead_refused {addr : Nat} {w : Width} {s : State} {r : Refusal} (h : csrRead addr w s = .refused r) :
    r = .outsideCsrWindow addr ∧ windowOffset s.plat.csrBase addr = none := by
  unfold csrRead at h
  split at h
  · next hoff => cases h; exact ⟨rfl, hoff⟩
  · split at h
    · cases h
    · split at h <;> cases h

theorem csrWrite_refused {addr : Nat} {w : Width} {v : Word} {s : State} {r : Refusal}
    (h : csrWrite addr w v s = .refused r) :
    r = .outsideCsrWindow addr ∧ windowOffset s.plat.csrBase addr = none := by
  unfold csrWrite at h
  split at h
  · next hoff => cases h; exact ⟨rfl, hoff⟩
  · split at h
    · cases h
    · split at h
      · split at h <;> cases h
      · cases h

/-- A completion is never refused: every command has its meaning, and an illegal word ends with an error. -/
theorem complete_ne_refused (s : State) (r : Refusal) : complete s ≠ .refused r := by
  unfold complete
  split
  · next i _ => obtain ⟨_, h⟩ | ⟨_, t, h⟩ := exec_fault_or_next i s <;> rw [h] <;> nofun
  · nofun

/-- How the turn of the agent that `e` names can stop the run in `s`. -/
inductive StopCause (e : Event) (s : State) : Fault → Prop
  | device (running : s.phase = .busy) (access : s.accessesDevice = true)
      (event : e = .engine ∨ (∃ level, e = .resetPin level) ∨
        ∃ v, e = .csrWrite (s.plat.csrBase + 0x08) .w32 v ∧ v.getLsbD 1 = true ∧ s.resetPin = false) :
      StopCause e s .deviceRegion
  | source (a : Nat) (guarded : s.guardedSource a = true)
      (event : (∃ ag x v, e = .memWrite ag x v ∧ a = x.toNat) ∨ ∃ c, e = .cacheWriteBack c ∧ a ∈ s.dirtyIn c) :
      StopCause e s (.sourceRace a)
  | destination (a : Nat) (guarded : s.guardedDestination a = true)
      (event : (∃ ag x, e = .memRead ag x ∧ a = x.toNat) ∨ (∃ ag x v, e = .memWrite ag x v ∧ a = x.toNat) ∨
        ∃ c, e = .cacheWriteBack c ∧ a ∈ s.dirtyIn c) :
      StopCause e s (.destinationRace a)

theorem turn_fault {e : Event} {s : State} {f : Fault} (h : turn e s = .fault f) : StopCause e s f := by
  cases e with
  | engine =>
    simp only [turn, engineTurn] at h
    split at h
    · next hb =>
      obtain ⟨rfl, hdev⟩ := (complete_fault_iff s f).mp h
      exact .device hb hdev (.inl rfl)
    · cases h
  | csrRead addr w => exact absurd h (csrRead_ne_fault addr w s f)
  | csrWrite addr w v =>
    obtain ⟨rfl, hf, hr, rfl, rfl, hv⟩ := csrWrite_fault h
    obtain ⟨hb, hdev⟩ := abortFaults_cases hf
    exact .device hb hdev (.inr (.inr ⟨v, rfl, hv, hr⟩))
  | memRead ag a =>
    obtain ⟨rfl, hg⟩ := (memRead_fault_iff ag a s f).mp h
    exact .destination _ hg (.inl ⟨ag, a, rfl, rfl⟩)
  | memWrite ag a v =>
    obtain ⟨rfl, hg⟩ | ⟨rfl, _, hg⟩ := (memWrite_fault_iff ag a v s f).mp h
    · exact .destination _ hg (.inr (.inl ⟨ag, a, v, rfl, rfl⟩))
    · exact .source _ hg (.inl ⟨ag, a, v, rfl, rfl⟩)
  | cacheWriteBack c =>
    obtain ⟨a, ha, ⟨rfl, hg⟩ | ⟨rfl, hg⟩⟩ := cacheWriteBack_fault h
    · exact .destination a hg (.inr (.inr ⟨c, rfl, ha⟩))
    · exact .source a hg (.inr ⟨c, rfl, ha⟩)
  | cacheInvalidate c => cases h
  | irqSample => cases h
  | resetPin level =>
    obtain ⟨rfl, hf⟩ := driveResetPin_fault h
    obtain ⟨hb, hdev⟩ := abortFaults_cases hf
    exact .device hb hdev (.inr (.inl ⟨level, rfl⟩))
  | busChange faults =>
    simp only [turn, busChange] at h
    split at h <;> cases h

/-- A step is the turn of the agent whose turn comes, or changes nothing, with no event left while IDLE (R233, R246). -/
theorem step_eq_turn_or_next (s : State) : step s = turn s.nextEvent s.tick ∨ step s = .next s := by
  unfold State.nextEvent
  cases hin : s.inputs with
  | cons e rest => exact .inl (step_cons hin)
  | nil =>
    cases hp : s.phase with
    | busy => exact .inl ((step_of_busy hp (.inl hin)).trans (engineTurn_of_busy (s := s.tick) hp).symm)
    | idle => exact .inr ((step_nil hin).trans (quietTurn_of_idle hp))

theorem step_fault {s : State} {f : Fault} (h : step s = .fault f) : StopCause s.nextEvent s.tick f := by
  obtain hturn | hnext := step_eq_turn_or_next s
  · exact turn_fault (hturn.symm.trans h)
  · exact absurd (hnext.symm.trans h) nofun

/-- A turn is refused only as a CSR access outside the window (R20, R81; log 14). -/
theorem turn_refused {e : Event} {s : State} {r : Refusal} (h : turn e s = .refused r) :
    ∃ addr, r = .outsideCsrWindow addr ∧ windowOffset s.plat.csrBase addr = none ∧
      ((∃ w, e = .csrRead addr w) ∨ ∃ w v, e = .csrWrite addr w v) := by
  cases e with
  | engine =>
    simp only [turn, engineTurn] at h
    split at h
    · exact absurd h (complete_ne_refused s r)
    · cases h
  | csrRead addr w =>
    obtain ⟨rfl, hoff⟩ := csrRead_refused h
    exact ⟨addr, rfl, hoff, .inl ⟨w, rfl⟩⟩
  | csrWrite addr w v =>
    obtain ⟨rfl, hoff⟩ := csrWrite_refused h
    exact ⟨addr, rfl, hoff, .inr ⟨w, v, rfl⟩⟩
  | memRead ag a =>
    simp only [turn, memRead] at h
    split at h <;> cases h
  | memWrite ag a v =>
    simp only [turn, memWrite] at h
    split at h
    · cases h
    · split at h <;> cases h
  | cacheWriteBack c =>
    simp only [turn, cacheWriteBack] at h
    split at h
    · cases h
    · split at h <;> cases h
  | cacheInvalidate c => cases h
  | irqSample => cases h
  | resetPin level =>
    simp only [turn, driveResetPin] at h
    split at h <;> cases h
  | busChange faults =>
    simp only [turn, busChange] at h
    split at h <;> cases h

theorem step_refused {s : State} {r : Refusal} (h : step s = .refused r) :
    ∃ addr, r = .outsideCsrWindow addr ∧ windowOffset s.plat.csrBase addr = none ∧
      ((∃ w, s.nextEvent = .csrRead addr w) ∨ ∃ w v, s.nextEvent = .csrWrite addr w v) := by
  obtain hturn | hnext := step_eq_turn_or_next s
  · exact turn_refused (s := s.tick) (hturn.symm.trans h)
  · exact absurd (hnext.symm.trans h) nofun

/-- Settles O59: each kind of stop has its cause in the turn taken, and no other turn stops a run. -/
theorem onlyTheNamedAccessesStopARun : Obligations.OnlyTheNamedAccessesStopARun := by
  unfold Obligations.OnlyTheNamedAccessesStopARun
  refine fun s => ⟨fun f h => ?_, fun r h => ?_⟩
  · cases step_fault h with
    | device hbusy hdev hevent =>
      refine .inl ⟨rfl, hbusy, ?_, accessesDevice_regions hdev⟩
      obtain he | ⟨level, he⟩ | ⟨v, he, hv, hr⟩ := hevent
      · obtain hin | hin := State.inputs_of_nextEvent_engine he
        · exact .inl hin
        · exact .inr (.inl hin)
      · obtain ⟨rest, hin⟩ := State.inputs_of_nextEvent he nofun
        exact .inr (.inr (.inl ⟨level, rest, hin⟩))
      · obtain ⟨rest, hin⟩ := State.inputs_of_nextEvent he nofun
        exact .inr (.inr (.inr ⟨v, rest, hin, hv, hr⟩))
    | source a hguarded hevent =>
      refine .inr (.inl ⟨a, rfl, (s.guardedSource_iff a).mp hguarded, ?_⟩)
      obtain ⟨ag, x, v, he, ha⟩ | ⟨c, he, ha⟩ := hevent
      · obtain ⟨rest, hin⟩ := State.inputs_of_nextEvent he nofun
        exact .inl ⟨ag, x, v, rest, hin, ha⟩
      · obtain ⟨rest, hin⟩ := State.inputs_of_nextEvent he nofun
        exact .inr ⟨c, rest, hin, (s.mem_dirtyIn c a).mp ha⟩
    | destination a hguarded hevent =>
      refine .inr (.inr ⟨a, rfl, (s.guardedDestination_iff a).mp hguarded, ?_⟩)
      obtain ⟨ag, x, he, ha⟩ | ⟨ag, x, v, he, ha⟩ | ⟨c, he, ha⟩ := hevent
      · obtain ⟨rest, hin⟩ := State.inputs_of_nextEvent he nofun
        exact .inl ⟨ag, x, rest, hin, ha⟩
      · obtain ⟨rest, hin⟩ := State.inputs_of_nextEvent he nofun
        exact .inr (.inl ⟨ag, x, v, rest, hin, ha⟩)
      · obtain ⟨rest, hin⟩ := State.inputs_of_nextEvent he nofun
        exact .inr (.inr ⟨c, rest, hin, (s.mem_dirtyIn c a).mp ha⟩)
  · obtain ⟨addr, rfl, hoff, hevent⟩ := step_refused h
    refine ⟨addr, rfl, windowOffset_none hoff, ?_⟩
    obtain ⟨w, he⟩ | ⟨w, v, he⟩ := hevent
    · obtain ⟨rest, hin⟩ := State.inputs_of_nextEvent he nofun
      exact .inl ⟨w, rest, hin⟩
    · obtain ⟨rest, hin⟩ := State.inputs_of_nextEvent he nofun
      exact .inr ⟨w, v, rest, hin⟩

end Sys2Proof.Machine
end
